-- ==== Sys2Proof/Word.lean ====
section
/-! DEFINITION. Word types of the blit core: 32-bit registers and arguments (REG_W), 16-bit dimensions
(DIM_W), 8-bit color channels (CH_W), and the RGB triple of spec/00_scope.md R11. -/

namespace Sys2Proof

/-- A host-visible register, an argument word or a pixel word: REG_W = 32 bits (00 R7). -/
abbrev Word := BitVec 32

/-- An image or surface dimension: DIM_W = 16 bits, unsigned (00 R7). -/
abbrev Half := BitVec 16

/-- A color channel, a palette byte or a buffer byte: CH_W = 8 bits (00 R7). -/
abbrev Byte := BitVec 8

/-- RGB24: three 8-bit unsigned channels (00 R11). -/
structure RGB where
  r : Byte
  g : Byte
  b : Byte
deriving DecidableEq, Repr, Inhabited

/-- (0, 0, 0), what CLEAR leaves in every cell (44 R190). -/
def RGB.black : RGB := ⟨0, 0, 0⟩

/-- (255, 255, 255), a true Bitmap1 pixel (43 R179). -/
def RGB.white : RGB := ⟨255, 255, 255⟩

end Sys2Proof
end

