-- ==== Sys2Proof/Machine/Operands.lean ====
section
/-! DEFINITION. Bit fields, the operand kinds of spec/30_encoding.md R95 and the argument word each kind is carried
in, and the two-halves layout of GEOM, CLIP_* and two FAULT_INFO values. -/

namespace Sys2Proof.Machine

/-- `w[lo+len-1 : lo]` (00 R9). -/
def field (w : Word) (lo len : Nat) : BitVec len := w.extractLsb' lo len

/-- OPCODE, bits 7:0 of a command word (30 R90). -/
def opcodeOf (w : Word) : Nat := (field w 0 8).toNat

/-- NARGS, bits 11:8 of a command word (30 R90). -/
def nargsOf (w : Word) : Nat := (field w 8 4).toNat

/-- RES, bits 31:12 of a command word, which must be 0 (30 R90). -/
def reservedOf (w : Word) : Nat := (field w 12 20).toNat

/-- Operand kind chan: `u8(a[7:0])`; `a[31:8]` is ignored (30 R95). -/
def chanOperand (a : Word) : Byte := field a 0 8

/-- Operand kind packed: the word whole, read later by `unpack24` (30 R95). -/
def packedOperand (a : Word) : Word := a

/-- Operand kind coord: `s32(a)` (30 R95, R98). -/
def coordOperand (a : Word) : Int := a.toInt

/-- Operand kind handle: the word whole, opaque (30 R95, 20 R63). -/
def handleOperand (a : Word) : Word := a

/-- Operand kind depth: `u8(a[7:0])`; `a[31:8]` is ignored (30 R95). -/
def depthOperand (a : Word) : Byte := field a 0 8

/-- Operand kind count: `u32(a)` (30 R95). -/
def countOperand (a : Word) : Nat := a.toNat

/-- The argument word that carries a channel or a depth: zero-extended. -/
def byteWord (b : Byte) : Word := b.setWidth 32

/-- The argument word that carries a coordinate: its 32-bit two's complement (30 R102). -/
def coordWord (x : Int) : Word := BitVec.ofInt 32 x

/-- The argument word that carries a count. -/
def countWord (n : Nat) : Word := BitVec.ofNat 32 n

/-- `{hi[15:0], lo[15:0]}` (00 R9): `hi` in bits 31:16, `lo` in bits 15:0. -/
def halves (hi lo : Int) : Word := BitVec.ofInt 16 hi ++ BitVec.ofInt 16 lo

/-- `u16(w[15:0])`. -/
def lowHalf (w : Word) : Nat := (field w 0 16).toNat

/-- `u16(w[31:16])`. -/
def highHalf (w : Word) : Nat := (field w 16 16).toNat

end Sys2Proof.Machine
end

