-- ==== Sys2Proof/Syntax.lean ====
section
/-! DEFINITION. The commands of the blit core: one constructor per form of spec/30_encoding.md R93 (and so per row
of spec/opcode_table.json), with the operands of R96 in the kinds of R95. -/

namespace Sys2Proof

/-- The five argument words of a command, ARG0..ARG4 (30 R90, 10 R24). -/
structure Args where
  arg0 : Word
  arg1 : Word
  arg2 : Word
  arg3 : Word
  arg4 : Word
deriving DecidableEq, Repr

/-- All five argument words 0. -/
def Args.zero : Args := ⟨0, 0, 0, 0, 0⟩

/-- A command with its operands (30 R93, R96). A chan or depth operand is a byte, a packed color or a handle a
word, a coord a signed integer and a count an unsigned one (30 R95). -/
inductive Instr where
  | clear
  | fillP (c : Word)
  | fillRgb (r g b : Byte)
  | setPixelP (x y : Int) (c : Word)
  | setPixelRgb (x y : Int) (r g b : Byte)
  | setBuffer (h : Word)
  | setImage (h : Word)
  | setImageOff (h : Word) (dx dy : Int)
  | setPwmBits (n : Byte)
  | construct (rows chain : Nat)
deriving DecidableEq, Repr

end Sys2Proof
end

