-- ==== Sys2Proof/Decode.lean ====
section
/-! DEFINITION. The command decoder of spec/30_encoding.md R94, total on every command word and every argument
words, with the operand mapping of R96; and the encoder, from the form table of R93. -/

namespace Sys2Proof

open Machine

/-- The three verdicts of 30 R94. -/
inductive Verdict where
  /-- nonzero reserved bits or a reserved OPCODE (30 R99) -/
  | illegal
  /-- a defined OPCODE with an NARGS outside its row of R92 (30 R100) -/
  | malformed (opcode : Nat)
  /-- one of the ten forms of R93, its operands assembled -/
  | form (i : Instr)
deriving DecidableEq, Repr

/-- OPCODE is one of 0x01..0x07 (30 R91). -/
def opcodeDefined (op : Nat) : Bool := decide (1 ≤ op) && decide (op ≤ 7)

/-- The form that a defined OPCODE and an accepted NARGS select, its operands taken from the argument words as
30 R96 maps them; nothing for an NARGS outside the row of R92. -/
def formOf (op n : Nat) (a : Args) : Option Instr :=
  match op, n with
  | 1, 0 => some .clear
  | 2, 1 => some (.fillP (packedOperand a.arg0))
  | 2, 3 => some (.fillRgb (chanOperand a.arg0) (chanOperand a.arg1) (chanOperand a.arg2))
  | 3, 3 => some (.setPixelP (coordOperand a.arg0) (coordOperand a.arg1) (packedOperand a.arg2))
  | 3, 5 => some (.setPixelRgb (coordOperand a.arg0) (coordOperand a.arg1)
      (chanOperand a.arg2) (chanOperand a.arg3) (chanOperand a.arg4))
  | 4, 1 => some (.setBuffer (handleOperand a.arg0))
  | 5, 1 => some (.setImage (handleOperand a.arg0))
  | 5, 3 => some (.setImageOff (handleOperand a.arg0) (coordOperand a.arg1) (coordOperand a.arg2))
  | 6, 1 => some (.setPwmBits (depthOperand a.arg0))
  | 7, 2 => some (.construct (countOperand a.arg0) (countOperand a.arg1))
  | _, _ => none

/-- The decoder (30 R94), its checks in the order written there. -/
def decode (w : Word) (a : Args) : Verdict :=
  if reservedOf w ≠ 0 ∨ opcodeDefined (opcodeOf w) = false then .illegal
  else
    match formOf (opcodeOf w) (nargsOf w) a with
    | some i => .form i
    | none => .malformed (opcodeOf w)

/-- The command word of a form, as the table of 30 R93 lists it. -/
def commandWord : Instr → Word
  | .clear => 0x00000001
  | .fillP _ => 0x00000102
  | .fillRgb _ _ _ => 0x00000302
  | .setPixelP _ _ _ => 0x00000303
  | .setPixelRgb _ _ _ _ _ => 0x00000503
  | .setBuffer _ => 0x00000104
  | .setImage _ => 0x00000105
  | .setImageOff _ _ _ => 0x00000305
  | .setPwmBits _ => 0x00000106
  | .construct _ _ => 0x00000207

/-- The argument words of a command (30 R96), the ones no operand uses written 0. -/
def argumentWords : Instr → Args
  | .clear => .zero
  | .fillP c => ⟨c, 0, 0, 0, 0⟩
  | .fillRgb r g b => ⟨byteWord r, byteWord g, byteWord b, 0, 0⟩
  | .setPixelP x y c => ⟨coordWord x, coordWord y, c, 0, 0⟩
  | .setPixelRgb x y r g b => ⟨coordWord x, coordWord y, byteWord r, byteWord g, byteWord b⟩
  | .setBuffer h => ⟨h, 0, 0, 0, 0⟩
  | .setImage h => ⟨h, 0, 0, 0, 0⟩
  | .setImageOff h dx dy => ⟨h, coordWord dx, coordWord dy, 0, 0⟩
  | .setPwmBits n => ⟨byteWord n, 0, 0, 0, 0⟩
  | .construct rows chain => ⟨countWord rows, countWord chain, 0, 0, 0⟩

/-- The words of a command: the command word and its argument words (30 R90). -/
def encode (i : Instr) : Word × Args := (commandWord i, argumentWords i)

/-- The command word and the argument words that the `nbits` low bits of `w` stand for: bits 31:0 are the command
word, bits 63:32 ARG0, and so on; every bit from `nbits` up is 0. -/
def splitWords (nbits w : Nat) : Word × Args :=
  let v := w % 2 ^ nbits
  (BitVec.ofNat 32 v,
    ⟨BitVec.ofNat 32 (v / 2 ^ 32), BitVec.ofNat 32 (v / 2 ^ 64), BitVec.ofNat 32 (v / 2 ^ 96),
     BitVec.ofNat 32 (v / 2 ^ 128), BitVec.ofNat 32 (v / 2 ^ 160)⟩)

/-- The command the decoder reads from an opcode-table word; nothing for an illegal or malformed one. -/
def decodeTableWord (nbits w : Nat) : Option Instr :=
  match decode (splitWords nbits w).1 (splitWords nbits w).2 with
  | .form i => some i
  | .malformed _ => none
  | .illegal => none

end Sys2Proof
end

