-- ==== Sys2Proof/Config.lean ====
section
/-! DEFINITION. What is fixed for the machine: the parameters of spec/00_scope.md R7, the record types the
external stores hand out (20_memory.md R64, R66), and the free values: the OPEN parameters of R8 and the draws
of R40 and R262, as constants without a body, so that no proof can see a value of theirs. -/

namespace Sys2Proof

/-- PAL_STRIDE, bytes per palette entry, fixed at 3 by 00 R7 (43 R181). -/
def Config.palStride : Nat := 3

/-- PAL_MAX, the largest palette length in entries (00 R7). -/
def Config.palMax : Nat := 256

/-- The number of values a DIM_W field has: widths and heights lie below it (00 R7). -/
def Config.dimBound : Nat := 65536

/-- The register window is 64 bytes, offsets 0x00..0x3F (20 R61). -/
def Config.windowBytes : Nat := 64

/-- An image record of the external image store (20 R64). The proof fields say what R64 says of every record:
a pixel word for every position, row by row, and PAL_STRIDE bytes for every palette entry, at most PAL_MAX
entries. A record that does not cover its own dimensions cannot be written down (93 U7). -/
structure ImageRec where
  width : Half
  height : Half
  /-- the 4-bit format code (43 R175) -/
  format : BitVec 4
  /-- the palette length in entries (20 R64), meaningful when the format is Palette8 -/
  palLen : Nat
  /-- the pixel words, row-major: `(x, y)` at index `y * width + x` -/
  pixels : List Word
  /-- the palette bytes -/
  palette : List Byte
  palLen_le : palLen ≤ Config.palMax
  pixels_length : pixels.length = width.toNat * height.toNat
  palette_length : palette.length = palLen * Config.palStride
deriving DecidableEq, Repr

/-- FREE VALUE. `SurfaceGeometry(rows, chain)` (00 R8) for a pair whose answer `State.geometry` does not list:
the formula is the external surface's (log 1). -/
opaque Config.surfaceGeometry : Nat → Nat → Option (Nat × Nat)

/-- FREE VALUE. `ImageStore(h)` (00 R8) for a handle that `State.stores` does not list (log 2). -/
opaque Config.imageStore : Word → Option ImageRec

/-- FREE VALUE. `BufferStore(h)` (00 R8) for a handle that `State.stores` does not list (log 2). -/
opaque Config.bufferStore : Word → Option (List Byte)

/-- FREE VALUE. `FbInit(x, y)` (00 R8, 10 R40): what cell `(x, y)` holds after the successful CONSTRUCT of
command index `draw`; a fresh draw for every command index (log 3). -/
opaque Config.fbInit (draw x y : Nat) : RGB

/-- FREE VALUE. What `PixRead` of source position `(x, y)` answers in the command of index `draw` when its image
changed since the issue (70 R262; log 8). -/
opaque Config.freePixel (draw x y : Nat) : Word

/-- FREE VALUE. What `PalRead` of palette byte `i` answers for the pixel at source position `(x, y)` in the command
of index `draw` when its image changed since the issue (70 R262; log 8). -/
opaque Config.freePalByte (draw x y i : Nat) : Byte

/-- FREE VALUE. What `BufRead` of byte `i` answers in the command of index `draw` when its buffer changed since the
issue (70 R262; log 8). -/
opaque Config.freeBufByte (draw i : Nat) : Byte

/-- FREE VALUE. Which of the contents a store had since the issue the descriptor read (`ImgDesc`, `BufLen`) of the
command of index `draw` sees (70 R262, 20 R71; log 8). -/
opaque Config.freeVersion (draw : Nat) : Nat

/-- FREE VALUE. `REG_BASE`, the register window's base in the host's address space (20 R61): host accesses are
given by their offset in the window, and no rule depends on the base. -/
opaque Config.regBase : Nat

end Sys2Proof
end

