-- ==== Sys2Proof/Machine/State.lean ====
section
/-! DEFINITION. The whole state of the blit core and of what it is connected to, as plain data: the registers of
spec/10_state.md R22, the hidden command latch (R36), the surface state and the framebuffer view (R37, R40), the
event trace (45 R214), the external stores (20 R64, R66) and the outside world's pending actions. -/

namespace Sys2Proof.Machine

/-- The result codes of 60 R220. The reserved codes 0x5..0x7 and 0xF have no constructor: they are never produced. -/
inductive Result where
  | ok
  | diagEmpty
  | diagInvalidArgs
  | diagUnsupportedFormat
  | diagPixelDropped
  | sizeMismatch
  | constructFailed
  | notConstructed
  | badHandle
  | paletteRange
  | illegalCmd
  | coordRange
deriving DecidableEq, Repr

/-- The CTRL register's two fields (10 R31); its reserved bits read 0 and are held nowhere. -/
structure Ctrl where
  diagEn : Bool
  oorErr : Bool
deriving DecidableEq, Repr

/-- The command latch `L` (10 R36). `valid` is also STATUS.BUSY (R36: the two are equal at every step). `index` is the
model's own: the number of the command, the tag of its events on the trace (45 R214). -/
structure Latch where
  valid : Bool
  cmd : Word
  args : Args
  ctrl : Ctrl
  index : Nat
deriving DecidableEq, Repr

/-- The port events (00 R13, 45 R212). `surfAlloc` carries the surface's answer. -/
inductive Event where
  | imgDesc (h : Word)
  | pixRead (h : Word) (x y : Nat)
  | palRead (h : Word) (i : Nat)
  | bufLen (h : Word)
  | bufRead (h : Word) (i : Nat)
  | fbSet (x y : Nat) (c : RGB)
  | fbFill (c : RGB)
  | fbClear
  | fbDepth (n : Byte)
  | surfAlloc (rows chain : Nat) (answer : Option (Nat × Nat))
  | surfRelease
deriving DecidableEq, Repr

/-- An entry of the event trace (45 R214): a port event and the index of the command that issued it; no index for the
SurfRelease of a reset, which no command issues (log 5). -/
structure TraceEntry where
  command : Option Nat
  event : Event
deriving DecidableEq, Repr

/-- What the cells that a view does not list hold: the draw `FbInit` of a CONSTRUCT (10 R40), named by that
command's index, or the color of the last fill or clear. -/
inductive Base where
  | drawn (draw : Nat)
  | uniform (c : RGB)
deriving DecidableEq, Repr

/-- The framebuffer view `FB` (10 R40). Listed are the cells written since the base was laid, each at its key
`cellKey x y`, in rising order of the keys; a cell whose color is the uniform base's is not listed. -/
structure View where
  base : Base
  cells : List (Nat × RGB)
deriving DecidableEq, Repr

/-- The contents of the external image and buffer stores (20 R64, R66), by handle in rising order. A listed `none` says
that nothing has this handle; what an unlisted handle names is `Config.imageStore`, `Config.bufferStore` (log 2). -/
structure Stores where
  images : List (Nat × Option ImageRec)
  buffers : List (Nat × Option (List Byte))
deriving DecidableEq, Repr

/-- A host access to the register window, as a bus error names it (20 R69): its direction, its width in bits and its
byte offset in the window. -/
structure Access where
  isWrite : Bool
  width : Nat
  offset : Nat
deriving DecidableEq, Repr

/-- What the outside world does in one step (10 R20), and which agent's step is taken (log 6). -/
inductive Input where
  /-- the host reads `width` bits at offset `off` (20 R60) -/
  | read (width off : Nat)
  /-- the host writes `width` bits at offset `off` (20 R60) -/
  | write (width off : Nat) (v : Word)
  /-- the host reads STATUS, and again until BUSY = 0 (30 R103) -/
  | poll
  /-- the command engine takes its step, if it has one (40 R123) -/
  | engine
  /-- the command engine takes its step and the host writes `v` to STATUS in the same step (10 R27, 60 R226) -/
  | engineWithStatusWrite (v : Word)
  /-- reset; `issued` says how many port events the command in progress had issued before it (70 R250, R251) -/
  | reset (issued : Nat)
  /-- the owner of the image store changes what handle `h` names -/
  | setImage (h : Word) (r : Option ImageRec)
  /-- the owner of the buffer store changes what handle `h` names -/
  | setBuffer (h : Word) (b : Option (List Byte))
  /-- an agent other than the block writes a cell of the surface (70 R263, 93 U9) -/
  | foreignSurfaceWrite (x y : Nat) (c : RGB)
deriving DecidableEq, Repr

/-- Why a step faults. -/
inductive Fault where
  /-- A host access that is not 32 bits wide, not aligned to 4 or outside the window: the block answers with a bus error
  and changes nothing (20 R69, which says to model it as a fault that names the access). Raised by the host's read and
  write inputs, by no command. Safe: the model stops where the hardware's host would go on. -/
  | busError (a : Access)
deriving DecidableEq, Repr

/-- Why a step is refused. -/
inductive Refusal where
  /-- An arm of `exec` without a meaning. Raised by no arm: every instruction has its meaning. Safe. -/
  | notModelled (mnemonic : String)
  /-- Another agent writes the surface's cells: no rule covers it (70 R263; 93 U9 says refuse). Raised by the input
  `foreignSurfaceWrite`, by no command. Safe: the model says nothing of what follows. -/
  | surfaceNotExclusive
deriving DecidableEq, Repr

/-- The state of the machine. -/
structure State where
  /-- CMD, offset 0x00 (10 R23) -/
  cmd : Word
  /-- ARG0..ARG4, offsets 0x04..0x14 (10 R24) -/
  args : Args
  /-- STATUS.ERR (10 R27) -/
  err : Bool
  /-- STATUS.OVR (10 R28) -/
  ovr : Bool
  /-- STATUS.RESULT (10 R29) -/
  result : Result
  /-- CTRL, offset 0x1C (10 R31) -/
  ctrl : Ctrl
  /-- GEOM, offset 0x20 (10 R32) -/
  geom : Word
  /-- FAULT_INFO, offset 0x24 (10 R33) -/
  faultInfo : Word
  /-- CLIP_SRC, offset 0x28 (10 R34) -/
  clipSrc : Word
  /-- CLIP_DST, offset 0x2C (10 R34) -/
  clipDst : Word
  /-- CLIP_SIZE, offset 0x30 (10 R34) -/
  clipSize : Word
  /-- WCOUNT, offset 0x34 (10 R35) -/
  wcount : Word
  /-- the command latch `L` (10 R36); `latch.valid` is STATUS.BUSY -/
  latch : Latch
  /-- `constructed` (10 R37), also STATUS.CONSTRUCTED (R30) -/
  constructed : Bool
  /-- the framebuffer view, while there is one (10 R40) -/
  view : Option View
  /-- the event trace, oldest event first (45 R214) -/
  trace : List TraceEntry
  /-- the model's own: how many commands have been issued, the next command's index (45 R214, log 5) -/
  issued : Nat
  /-- the external stores' contents now (20 R64, R66) -/
  stores : Stores
  /-- the model's own: the contents the stores had earlier since the issue of the latched command, newest first (70 R262) -/
  earlier : List Stores
  /-- listed answers of `SurfaceGeometry` (00 R8); an unlisted pair's answer is `Config.surfaceGeometry` (log 1) -/
  geometry : List ((Nat × Nat) × Option (Nat × Nat))
  /-- the model's own: what the outside world does next, in order (log 6) -/
  agenda : List Input
  /-- the model's own: the host's reads and what they returned, oldest first: (offset, value) (20 R60) -/
  readLog : List (Nat × Word)
deriving DecidableEq, Repr

/-- Right after power-on reset (10 R46, R47, 70 R250): every register 0, the latch not valid, no surface and no view,
nothing observed yet. The latch's other fields are 0 (log 4); the stores and the geometry list nothing, so that
every answer of theirs is free (log 1, 2). -/
def State.reset : State where
  cmd := 0
  args := Args.zero
  err := false
  ovr := false
  result := .ok
  ctrl := ⟨false, false⟩
  geom := 0
  faultInfo := 0
  clipSrc := 0
  clipDst := 0
  clipSize := 0
  wcount := 0
  latch := ⟨false, 0, Args.zero, ⟨false, false⟩, 0⟩
  constructed := false
  view := none
  trace := []
  issued := 0
  stores := ⟨[], []⟩
  earlier := []
  geometry := []
  agenda := []
  readLog := []

end Sys2Proof.Machine
end

