-- ==== Sys2Proof/Machine/Surface.lean ====
section
/-! DEFINITION. The surface as the block sees it: its geometry (spec/10_state.md R32, R37), the framebuffer view of R40
and the effect of every write-port request on it (45_write_arbiter.md R212). -/

namespace Sys2Proof.Machine

/-- WIDTH, `u16(GEOM[15:0])` (10 R32). -/
def State.width (s : State) : Nat := lowHalf s.geom

/-- HEIGHT, `u16(GEOM[31:16])` (10 R32). -/
def State.height (s : State) : Nat := highHalf s.geom

/-- The key of cell `(x, y)` in a view: `{y, x}` in 16-bit halves, so that rising keys are row-major order (log 12). -/
def cellKey (x y : Nat) : Nat := y * Config.dimBound + x

/-- The color an unlisted cell `(x, y)` of a view holds. -/
def Base.colorAt (b : Base) (x y : Nat) : RGB :=
  match b with
  | .drawn d => Config.fbInit d x y
  | .uniform c => c

/-- The color of cell `(x, y)` in a view. -/
def View.colorAt (v : View) (x y : Nat) : RGB :=
  match tabFind (cellKey x y) v.cells with
  | some c => c
  | none => v.base.colorAt x y

/-- `FB[x, y] <- c` (10 R40). The view stays canonical: a cell that gets the uniform base's color is not listed. -/
def View.set (v : View) (x y : Nat) (c : RGB) : View :=
  if v.base = .uniform c then { v with cells := tabErase (cellKey x y) v.cells }
  else { v with cells := tabInsert (cellKey x y) c v.cells }

/-- Every cell `<- c`, whatever the view held (10 R40). -/
def View.filled (c : RGB) : View := { base := .uniform c, cells := [] }

/-- A new surface's view: every cell holds its draw `FbInit` (10 R40). -/
def View.fresh (draw : Nat) : View := { base := .drawn draw, cells := [] }

/-- The canonical form of a view (what the guide calls the memory's form): the keys strictly rising, and no listed cell
of the uniform base's color. -/
def View.wf (v : View) : Bool :=
  tabRising v.cells && v.cells.all (fun e => decide (v.base ≠ .uniform e.2))

/-- Every listed cell lies in a surface of `w` columns and `h` rows (45 R215). -/
def View.inside (v : View) (w h : Nat) : Bool :=
  v.cells.all (fun e => decide (e.1 % Config.dimBound < w) && decide (e.1 / Config.dimBound < h))

/-- `FB[x, y]`: the color of a cell of the surface; nothing outside the surface or while there is no view (10 R40). -/
def State.fb (s : State) (x y : Nat) : Option RGB :=
  match s.view with
  | none => none
  | some v => if x < s.width ∧ y < s.height then some (v.colorAt x y) else none

/-- What a port event does to the view (45 R212); `draw` is the issuing command's index, which names the draw of a
surface it creates. Read events do nothing to it. -/
def viewAfter (draw : Nat) (v : Option View) (e : Event) : Option View :=
  match e with
  | .fbSet x y c => v.map (fun u => u.set x y c)
  | .fbFill c => v.map (fun _ => View.filled c)
  | .fbClear => v.map (fun _ => View.filled RGB.black)
  | .fbDepth _ => v
  | .surfAlloc _ _ answer =>
    match answer with
    | some _ => some (View.fresh draw)
    | none => v
  | .surfRelease => none
  | .imgDesc _ => v
  | .pixRead _ _ _ => v
  | .palRead _ _ => v
  | .bufLen _ => v
  | .bufRead _ _ => v

/-- `SurfaceGeometry(rows, chain)`, the surface's answer to SurfAlloc (00 R8, 44 R198): the listed answer, or a free
value (log 1). -/
def State.surfaceGeometry (s : State) (rows chain : Nat) : Option (Nat × Nat) :=
  match List.lookup (rows, chain) s.geometry with
  | some a => a
  | none => Config.surfaceGeometry rows chain

end Sys2Proof.Machine
end

