-- ==== Sys2Proof/Machine/Arbiter.lean ====
section
/-! DEFINITION. The framebuffer write arbiter (spec/45_write_arbiter.md): its requesters, its grant, which holds no state
(R217), and the forwarding of port events, one after another, to the surface and onto the trace. -/

namespace Sys2Proof.Machine

/-- The arbiter's three requesters (45 R210). -/
inductive Requester where
  | direct
  | bufferTransfer
  | blit
deriving DecidableEq, Repr

/-- The requester that performs a form (45 R210). -/
def requesterOf : Instr → Requester
  | .clear => .direct
  | .fillP _ => .direct
  | .fillRgb _ _ _ => .direct
  | .setPixelP _ _ _ => .direct
  | .setPixelRgb _ _ _ _ _ => .direct
  | .setBuffer _ => .bufferTransfer
  | .setImage _ => .blit
  | .setImageOff _ _ _ => .blit
  | .setPwmBits _ => .direct
  | .construct _ _ => .direct

/-- The grant of the write port: the requester whose form is in the valid latch, none otherwise (45 R211, R217). -/
def State.grant (s : State) : Option Requester :=
  match s.latch.valid, decode s.latch.cmd s.latch.args with
  | true, .form i => some (requesterOf i)
  | true, .illegal => none
  | true, .malformed _ => none
  | false, _ => none

/-- The event is a request on the write port (45 R212), not a read of the image, palette or buffer space. -/
def Event.isWriteRequest : Event → Bool
  | .fbSet _ _ _ => true
  | .fbFill _ => true
  | .fbClear => true
  | .fbDepth _ => true
  | .surfAlloc _ _ _ => true
  | .surfRelease => true
  | .imgDesc _ => false
  | .pixRead _ _ _ => false
  | .palRead _ _ => false
  | .bufLen _ => false
  | .bufRead _ _ => false

/-- The event is an FbSet, the only kind WCOUNT counts (10 R35). -/
def Event.isFbSet : Event → Bool
  | .fbSet _ _ _ => true
  | .fbFill _ => false
  | .fbClear => false
  | .fbDepth _ => false
  | .surfAlloc _ _ _ => false
  | .surfRelease => false
  | .imgDesc _ => false
  | .pixRead _ _ _ => false
  | .palRead _ _ => false
  | .bufLen _ => false
  | .bufRead _ _ => false

/-- The requester's form may issue this kind of event (20 R62, the last column of 45 R212). -/
def Event.allowedFor (e : Event) (i : Instr) : Bool :=
  match e, i with
  | .imgDesc _, .setImage _ => true
  | .imgDesc _, .setImageOff _ _ _ => true
  | .pixRead _ _ _, .setImage _ => true
  | .pixRead _ _ _, .setImageOff _ _ _ => true
  | .palRead _ _, .setImage _ => true
  | .palRead _ _, .setImageOff _ _ _ => true
  | .bufLen _, .setBuffer _ => true
  | .bufRead _ _, .setBuffer _ => true
  | .fbSet _ _ _, .setPixelP _ _ _ => true
  | .fbSet _ _ _, .setPixelRgb _ _ _ _ _ => true
  | .fbSet _ _ _, .setBuffer _ => true
  | .fbSet _ _ _, .setImage _ => true
  | .fbSet _ _ _, .setImageOff _ _ _ => true
  | .fbFill _, .fillP _ => true
  | .fbFill _, .fillRgb _ _ _ => true
  | .fbClear, .clear => true
  | .fbDepth _, .setPwmBits _ => true
  | .surfAlloc _ _ _, .construct _ _ => true
  | .surfRelease, .construct _ _ => true
  | _, _ => false

/-- The number of FbSet events among some events. -/
def fbSets (evs : List Event) : Nat := evs.countP Event.isFbSet

/-- The surface performs the requests among `evs` in order, each complete before the next (45 R213), and every event goes
onto the trace, tagged with the latched command's index (45 R214). -/
def State.emit (s : State) (evs : List Event) : State :=
  { s with
    view := evs.foldl (viewAfter s.latch.index) s.view
    trace := s.trace ++ evs.map (fun e => { command := some s.latch.index, event := e }) }

end Sys2Proof.Machine
end

