-- ==== Sys2Proof/Machine/Flags.lean ====
section
/-! DEFINITION. The STATUS and CTRL words (spec/10_state.md R25 to R31), the result codes (60_exceptions.md R220), the
sticky flags and the selection of diagnostics (00_scope.md R16). -/

namespace Sys2Proof.Machine

/-- The 4-bit code of a result (60 R220). -/
def Result.code : Result → BitVec 4
  | .ok => 0x0
  | .diagEmpty => 0x1
  | .diagInvalidArgs => 0x2
  | .diagUnsupportedFormat => 0x3
  | .diagPixelDropped => 0x4
  | .sizeMismatch => 0x8
  | .constructFailed => 0x9
  | .notConstructed => 0xA
  | .badHandle => 0xB
  | .paletteRange => 0xC
  | .illegalCmd => 0xD
  | .coordRange => 0xE

/-- An error: a code of 0x8 or above, which sets STATUS.ERR (10 R27, 60 R224). -/
def Result.isError (r : Result) : Bool := decide (8 ≤ r.code.toNat)

/-- STATUS.BUSY, which is `L.valid` (10 R26, R36). -/
def State.busy (s : State) : Bool := s.latch.valid

/-- STATUS as the host reads it (10 R25): RESULT in bits 11:8, CONSTRUCTED, OVR, ERR and BUSY in bits 3:0, 0 elsewhere. -/
def State.statusWord (s : State) : Word :=
  0#20 ++ s.result.code ++ 0#4 ++ BitVec.ofBool s.constructed ++ BitVec.ofBool s.ovr ++
    BitVec.ofBool s.err ++ BitVec.ofBool s.busy

/-- A host write to STATUS: 1 in bit 1 clears ERR, 1 in bit 2 clears OVR, nothing else is written (10 R27, R28, R45). -/
def State.writeStatus (s : State) (v : Word) : State :=
  { s with
    err := s.err && !v.getLsbD 1
    ovr := s.ovr && !v.getLsbD 2 }

/-- CTRL as the host reads it (10 R31). -/
def Ctrl.word (c : Ctrl) : Word := 0#30 ++ BitVec.ofBool c.oorErr ++ BitVec.ofBool c.diagEn

/-- What a host write to CTRL stores: its two fields; the reserved bits are ignored (10 R31). -/
def Ctrl.ofWord (v : Word) : Ctrl := { diagEn := v.getLsbD 0, oorErr := v.getLsbD 1 }

/-- `diag(c)`: the code `c` while the latched DIAG_EN is 1, OK while it is 0 (00 R16, 60 R223). -/
def State.diag (s : State) (c : Result) : Result := if s.latch.ctrl.diagEn then c else .ok

end Sys2Proof.Machine
end

