-- ==== Sys2Proof/Machine/Ops.lean ====
section
/-! DEFINITION. The operations all commands share: issue, the completion primitive and `raise`, which is this
hardware's taking of an exception (spec/00_scope.md R14, 60_exceptions.md R227; there is no return from one, R228), the
prologue's surface check, and carrying a command's plan out. -/

namespace Sys2Proof.Machine

/-- What performing a command comes to: the port events in order, the result code and FAULT_INFO of its completion, and
the values its rule gives CLIP_SRC, CLIP_DST, CLIP_SIZE and GEOM, where it writes them. A new GEOM also sets
`constructed` (44 R199). -/
structure Plan where
  events : List Event
  code : Result
  info : Word
  clip : Option (Word × Word × Word)
  geom : Option Word
deriving DecidableEq, Repr

/-- `complete(OK, 0)` after the given events (00 R14). -/
def Plan.done (evs : List Event) : Plan :=
  { events := evs, code := .ok, info := 0, clip := none, geom := none }

/-- `complete(diag(c), 0)` after the given events (00 R14, R16). -/
def Plan.note (s : State) (evs : List Event) (c : Result) : Plan :=
  { events := evs, code := s.diag c, info := 0, clip := none, geom := none }

/-- `raise E(info)` after the given events: the command ends with that result code (00 R14, 60 R227). -/
def Plan.raise (evs : List Event) (e : Result) (info : Word) : Plan :=
  { events := evs, code := e, info := info, clip := none, geom := none }

/-- The plan also writes CLIP_SRC, CLIP_DST and CLIP_SIZE (43 R171). -/
def Plan.withClip (p : Plan) (src dst size : Word) : Plan := { p with clip := some (src, dst, size) }

/-- The completion primitive (00 R14): RESULT, FAULT_INFO and WCOUNT are written, ERR is set by an error code and kept
otherwise (10 R27), and `L.valid`, which is BUSY, is cleared (10 R26, R36). -/
def State.complete (s : State) (code : Result) (info : Word) (n : Nat) : State :=
  { s with
    result := code
    faultInfo := info
    wcount := BitVec.ofNat 32 n
    err := s.err || code.isError
    latch := { s.latch with valid := false } }

/-- CLIP_SRC, CLIP_DST and CLIP_SIZE take the given values, or stay (10 R34). -/
def State.writeClip (s : State) (c : Option (Word × Word × Word)) : State :=
  match c with
  | some v => { s with clipSrc := v.1, clipDst := v.2.1, clipSize := v.2.2 }
  | none => s

/-- GEOM takes the given value and `constructed` is set, or both stay (44 R199, R200). -/
def State.writeGeom (s : State) (g : Option Word) : State :=
  match g with
  | some v => { s with geom := v, constructed := true }
  | none => s

/-- A plan carried out in one step, atomic to the register interface (40 R124): its events, its register writes and its
completion, whose WCOUNT is the number of its FbSet events (10 R35). -/
def State.carryOut (s : State) (p : Plan) : State :=
  ((((s.emit p.events).writeClip p.clip).writeGeom p.geom).complete p.code p.info (fbSets p.events))

/-- The prologue's check that a surface exists, for every command but CONSTRUCT: NOT_CONSTRUCTED without an event while
`constructed = 0` (40 R123). -/
def Plan.onSurface (s : State) (p : Plan) : Plan :=
  if s.constructed then p else Plan.raise [] .notConstructed 0

/-- Issue of a command word (40 R120): CMD and the latch are written and BUSY is set. The command gets the next index,
and the stores' contents are from here on to stay as they are (70 R262). -/
def State.issue (s : State) (w : Word) : State :=
  { s with
    cmd := w
    latch := { valid := true, cmd := w, args := s.args, ctrl := s.ctrl, index := s.issued }
    issued := s.issued + 1
    earlier := [] }

end Sys2Proof.Machine
end

