-- ==== Sys2Proof/Machine/Stores.lean ====
section
/-! DEFINITION. The read ports: image, palette and buffer space (spec/20_memory.md R62 to R66), and what they answer when
the host breaks the source stability of 70_reset_and_hazards.md R262 (log 8). -/

namespace Sys2Proof.Machine

/-- `ImageStore(h)` of the given contents (20 R64). -/
def Stores.image (t : Stores) (h : Word) : Option ImageRec :=
  match tabFind h.toNat t.images with
  | some r => r
  | none => Config.imageStore h

/-- `BufferStore(h)` of the given contents (20 R66). -/
def Stores.buffer (t : Stores) (h : Word) : Option (List Byte) :=
  match tabFind h.toNat t.buffers with
  | some b => b
  | none => Config.bufferStore h

/-- The image of handle `h` has been the same since the issue of the latched command (70 R262). -/
def State.imageStable (s : State) (h : Word) : Bool :=
  s.earlier.all (fun t => decide (tabFind h.toNat t.images = tabFind h.toNat s.stores.images))

/-- The buffer of handle `h` has been the same since the issue of the latched command (70 R262). -/
def State.bufferStable (s : State) (h : Word) : Bool :=
  s.earlier.all (fun t => decide (tabFind h.toNat t.buffers = tabFind h.toNat s.stores.buffers))

/-- The contents that a descriptor read sees when its record changed since the issue: the present ones or earlier ones,
by a free choice (70 R262, 20 R71; log 8). -/
def State.someVersion (s : State) : Stores :=
  (s.stores :: s.earlier).getD (Config.freeVersion s.latch.index % (s.earlier.length + 1)) s.stores

/-- `ImgDesc(h)` (20 R64). -/
def State.imgDesc (s : State) (h : Word) : Option ImageRec :=
  if s.imageStable h then s.stores.image h else s.someVersion.image h

/-- `BufLen(h)` answers the length of this record (20 R66). -/
def State.bufDesc (s : State) (h : Word) : Option (List Byte) :=
  if s.bufferStable h then s.stores.buffer h else s.someVersion.buffer h

/-- `pix(x, y)` of an image, on the positions it covers (20 R64, R65). -/
def pixAt (img : ImageRec) (x y : Nat) : Option Word :=
  img.pixels[y * img.width.toNat + x]?

/-- `PixRead(h, x, y)` (20 R64), `img` being what `ImgDesc(h)` answered. A changed image answers a free draw (70 R262); so
would a position the image does not cover, which is never asked for (20 R65). -/
def State.pixRead (s : State) (h : Word) (img : ImageRec) (x y : Nat) : Word :=
  if s.imageStable h then (pixAt img x y).getD (Config.freePixel s.latch.index x y)
  else Config.freePixel s.latch.index x y

/-- `PalRead(h, i)` for the pixel at source position `(x, y)` (20 R64, R65); a changed image answers a free draw
(70 R262). -/
def State.palRead (s : State) (h : Word) (img : ImageRec) (x y i : Nat) : Byte :=
  if s.imageStable h then img.palette.getD i (Config.freePalByte s.latch.index x y i)
  else Config.freePalByte s.latch.index x y i

/-- `BufRead(h, i)` (20 R66), `buf` being the record whose length `BufLen(h)` answered; a changed buffer answers a free
draw (70 R262). -/
def State.bufRead (s : State) (h : Word) (buf : List Byte) (i : Nat) : Byte :=
  if s.bufferStable h then buf.getD i (Config.freeBufByte s.latch.index i)
  else Config.freeBufByte s.latch.index i

/-- The store's owner changes its contents. While a command is in progress the contents it had are kept, for the
reads of that command (70 R262). -/
def State.changeStores (s : State) (t : Stores) : State :=
  { s with
    stores := t
    earlier := if s.latch.valid then s.stores :: s.earlier else s.earlier }

/-- What handle `h` names in the image store is now `r`. -/
def State.setImage (s : State) (h : Word) (r : Option ImageRec) : State :=
  s.changeStores { s.stores with images := tabInsert h.toNat r s.stores.images }

/-- What handle `h` names in the buffer store is now `b`. -/
def State.setBuffer (s : State) (h : Word) (b : Option (List Byte)) : State :=
  s.changeStores { s.stores with buffers := tabInsert h.toNat b s.stores.buffers }

end Sys2Proof.Machine
end

