-- ==== Sys2Proof/Machine/BufferTransfer.lean ====
section
/-! DEFINITION. The buffer transfer engine: SET_BUFFER (spec/42_buffer_transfer.md). -/

namespace Sys2Proof.Machine

/-- The positions of `for y in [0, h): for x in [0, w)`, row-major (00 R15). -/
def rowMajor (w h : Nat) : List (Nat × Nat) :=
  (List.range h).flatMap (fun y => (List.range w).map (fun x => (x, y)))

/-- The byte offset of pixel `(x, y)` in a flat buffer of row width `w` (42 R151). -/
def bufferOffset (w x y : Nat) : Nat := (y * w + x) * 3

/-- The color of pixel `(x, y)`: the bytes R, G, B at its offset (42 R151). -/
def State.bufferColor (s : State) (h : Word) (buf : List Byte) (x y : Nat) : RGB :=
  let o := bufferOffset s.width x y
  ⟨s.bufRead h buf o, s.bufRead h buf (o + 1), s.bufRead h buf (o + 2)⟩

/-- The events of one pixel of the transfer (42 R150): three byte reads, then the write. -/
def State.bufferPixel (s : State) (h : Word) (buf : List Byte) (p : Nat × Nat) : List Event :=
  let o := bufferOffset s.width p.1 p.2
  [.bufRead h o, .bufRead h (o + 1), .bufRead h (o + 2), .fbSet p.1 p.2 (s.bufferColor h buf p.1 p.2)]

/-- SET_BUFFER (42 R150): BAD_HANDLE, then SIZE_MISMATCH before any read or write (R152), then every cell in row-major
order. -/
def planSetBuffer (s : State) (h : Word) : Plan :=
  match s.bufDesc h with
  | none => Plan.raise [.bufLen h] .badHandle h
  | some buf =>
    if buf.length ≠ s.width * s.height * 3 then
      Plan.raise [.bufLen h] .sizeMismatch (BitVec.ofNat 32 buf.length)
    else
      Plan.done (.bufLen h :: (rowMajor s.width s.height).flatMap (s.bufferPixel h buf))

/-- SET_BUFFER (42 R150). -/
def execSetBuffer (h : Word) (s : State) : Host.Outcome State Fault Refusal :=
  .next (s.carryOut (Plan.onSurface s (planSetBuffer s h)))

end Sys2Proof.Machine
end

