-- ==== Sys2Proof/Machine/Clipper.lean ====
section
/-! DEFINITION. The bounds clipper (spec/43_blitter.md R160 to R166), on mathematical integers (R166). -/

namespace Sys2Proof.Machine

/-- The clip of one axis: source offset, destination offset and visible length. -/
structure AxisClip where
  src : Int
  dst : Int
  len : Int
deriving DecidableEq, Repr

/-- The clip rectangle `(sx, sy, dx, dy, w, h)` of 43 R160. -/
structure Clip where
  sx : Int
  sy : Int
  dx : Int
  dy : Int
  w : Int
  h : Int
deriving DecidableEq, Repr

/-- One axis of 43 R160: the far edge first, from the requested offset (R161), then the near edge, which moves a negative
offset into the source offset (R162). `m` is the surface's size, `n` the image's, `d` the requested offset. -/
def clipAxis (m n d : Int) : AxisClip :=
  let edge := d + n - 1
  let len := if edge ≥ m then n - (edge - m + 1) else n
  if d < 0 then { src := 0 - d, dst := 0, len := len + d } else { src := 0, dst := d, len := len }

/-- `Clip(mw, mh, w0, h0, dx0, dy0)` (43 R160). The two axes are independent (R162). -/
def clip (mw mh w0 h0 dx0 dy0 : Int) : Clip :=
  let cx := clipAxis mw w0 dx0
  let cy := clipAxis mh h0 dy0
  { sx := cx.src, sy := cy.src, dx := cx.dst, dy := cy.dst, w := cx.len, h := cy.len }

/-- The blit is degenerate: `w <= 0` or `h <= 0` (43 R163). -/
def Clip.degenerate (c : Clip) : Bool := decide (c.w ≤ 0) || decide (c.h ≤ 0)

/-- CLIP_SRC of a visible clip: `{sy[15:0], sx[15:0]}` (10 R34). -/
def Clip.srcWord (c : Clip) : Word := halves c.sy c.sx

/-- CLIP_DST of a visible clip: `{dy[15:0], dx[15:0]}` (10 R34). -/
def Clip.dstWord (c : Clip) : Word := halves c.dy c.dx

/-- CLIP_SIZE of a visible clip: `{vh[15:0], vw[15:0]}` (10 R34). -/
def Clip.sizeWord (c : Clip) : Word := halves c.h c.w

end Sys2Proof.Machine
end

