-- ==== Sys2Proof/Machine/Codec.lean ====
section
/-! DEFINITION. The color codec (spec/41_codec.md R140 to R144). -/

namespace Sys2Proof.Machine

/-- `unpack24(c)`: R in bits 23:16, G in 15:8, B in 7:0; bits 31:24 are ignored (41 R140, R144). -/
def unpack24 (c : Word) : RGB := { r := field c 16 8, g := field c 8 8, b := field c 0 8 }

/-- `pack24(r, g, b)`, with bits 31:24 zero (41 R141). No command uses it (41 R143). -/
def pack24 (c : RGB) : Word := 0#8 ++ c.r ++ c.g ++ c.b

end Sys2Proof.Machine
end

