-- ==== Sys2Proof/Machine/PixelFormat.lean ====
section
/-! DEFINITION. The pixel-format decoder (spec/43_blitter.md R175 to R183). -/

namespace Sys2Proof.Machine

/-- TrueColor: the codec's fields in the reverse channel order, R = p[7:0], G = p[15:8], B = p[23:16] (43 R178). -/
def decodeTrueColor (p : Word) : RGB :=
  let q := unpack24 p
  { r := q.b, g := q.g, b := q.r }

/-- Bitmap1: white if p[7:0] is not 0, else black (43 R179). -/
def decodeBitmap1 (p : Word) : RGB := if field p 0 8 ≠ 0 then RGB.white else RGB.black

/-- What decoding one pixel comes to: the palette reads it issued and its color, or PALETTE_RANGE. -/
inductive Decoded where
  | color (reads : List Event) (c : RGB)
  | outOfPalette
deriving DecidableEq, Repr

/-- Palette8 (43 R180, R181): the index p[7:0] must lie below the palette length; entry `k` is the three palette bytes
from `k * PAL_STRIDE`. -/
def decodePalette8 (s : State) (h : Word) (img : ImageRec) (p : Word) (xs ys : Nat) : Decoded :=
  let k := (field p 0 8).toNat
  if img.palLen ≤ k then .outOfPalette
  else
    let base := k * Config.palStride
    .color [.palRead h base, .palRead h (base + 1), .palRead h (base + 2)]
      ⟨s.palRead h img xs ys base, s.palRead h img xs ys (base + 1), s.palRead h img xs ys (base + 2)⟩

/-- Format codes 0, 1 and 2 are supported, 3..15 are not (43 R175, R177). -/
def formatSupported (f : BitVec 4) : Bool := decide (f.toNat ≤ 2)

/-- `Decode(h, fmt, pal_len, p, xs, ys)` (43 R176). It is never called with an unsupported format (R177). -/
def decodePixel (s : State) (h : Word) (img : ImageRec) (p : Word) (xs ys : Nat) : Decoded :=
  if img.format = 0 then .color [] (decodeTrueColor p)
  else if img.format = 1 then .color [] (decodeBitmap1 p)
  else decodePalette8 s h img p xs ys

end Sys2Proof.Machine
end

