-- ==== Sys2Proof/Machine/Blitter.lean ====
section
/-! DEFINITION. The image blitter: SET_IMAGE and SET_IMAGE.OFF (spec/43_blitter.md R170 to R174). -/

namespace Sys2Proof.Machine

/-- The source position of visible pixel `p`: `(sx + x, sy + y)` (43 R170). -/
def Clip.source (c : Clip) (p : Nat × Nat) : Nat × Nat := (c.sx.toNat + p.1, c.sy.toNat + p.2)

/-- The destination cell of visible pixel `p`: `(dx + x, dy + y)` (43 R170). -/
def Clip.target (c : Clip) (p : Nat × Nat) : Nat × Nat := (c.dx.toNat + p.1, c.dy.toNat + p.2)

/-- The decoded pixel word at a source position. -/
def State.decodeAt (s : State) (h : Word) (img : ImageRec) (q : Nat × Nat) : Decoded :=
  decodePixel s h img (s.pixRead h img q.1 q.2) q.1 q.2

/-- The blit loop over the visible pixels in order (43 R170): for each the pixel read, the palette reads and the write,
up to the first pixel whose index is outside the palette, which is read and not written (43 R182). Beside the
events: the source position of that pixel, if there is one. -/
def State.blitLoop (s : State) (h : Word) (img : ImageRec) (c : Clip) :
    List (Nat × Nat) → List Event × Option (Nat × Nat)
  | [] => ([], none)
  | p :: rest =>
    let q := c.source p
    match s.decodeAt h img q with
    | .outOfPalette => ([.pixRead h q.1 q.2], some q)
    | .color reads rgb =>
      let t := c.target p
      let more := s.blitLoop h img c rest
      ([.pixRead h q.1 q.2] ++ reads ++ [.fbSet t.1 t.2 rgb] ++ more.1, more.2)

/-- The clip of an image placed at `(dx0, dy0)` on the surface (43 R170). -/
def State.imageClip (s : State) (img : ImageRec) (dx0 dy0 : Int) : Clip :=
  clip s.width s.height img.width.toNat img.height.toNat dx0 dy0

/-- The visible pixels of a clip, in row-major order (43 R170). -/
def Clip.pixels (c : Clip) : List (Nat × Nat) := rowMajor c.w.toNat c.h.toNat

/-- The part of a SET_IMAGE after its clip is known not to be degenerate: the format check, the loop, and its end by
PALETTE_RANGE with the offending source position or by OK (43 R170, R177, R182). -/
def planVisible (s : State) (h : Word) (img : ImageRec) (c : Clip) : Plan :=
  if formatSupported img.format then
    let out := s.blitLoop h img c c.pixels
    match out.2 with
    | some q => Plan.raise (.imgDesc h :: out.1) .paletteRange (halves q.2 q.1)
    | none => Plan.done (.imgDesc h :: out.1)
  else Plan.note s [.imgDesc h] .diagUnsupportedFormat

/-- SET_IMAGE at a destination offset (43 R170): BAD_HANDLE, then the clip with its CLIP_* registers (R171), the
degenerate case (R172) and the visible one. -/
def planSetImage (s : State) (h : Word) (dx0 dy0 : Int) : Plan :=
  match s.imgDesc h with
  | none => Plan.raise [.imgDesc h] .badHandle h
  | some img =>
    let c := s.imageClip img dx0 dy0
    if c.degenerate then (Plan.note s [.imgDesc h] .diagEmpty).withClip 0 0 0
    else (planVisible s h img c).withClip c.srcWord c.dstWord c.sizeWord

/-- SET_IMAGE: the default offset (0, 0) (43 R170). -/
def execSetImage (h : Word) (s : State) : Host.Outcome State Fault Refusal :=
  .next (s.carryOut (Plan.onSurface s (planSetImage s h 0 0)))

/-- SET_IMAGE.OFF: a signed destination offset (43 R170). -/
def execSetImageOff (h : Word) (dx dy : Int) (s : State) : Host.Outcome State Fault Refusal :=
  .next (s.carryOut (Plan.onSurface s (planSetImage s h dx dy)))

end Sys2Proof.Machine
end

