-- ==== Sys2Proof/Machine/SurfaceCommands.lean ====
section
/-! DEFINITION. The direct path: CLEAR, FILL, SET_PIXEL, SET_PWM_BITS and CONSTRUCT (spec/44_surface_commands.md). -/

namespace Sys2Proof.Machine

/-- CLEAR: one FbClear (44 R190). -/
def execClear (s : State) : Host.Outcome State Fault Refusal :=
  .next (s.carryOut (Plan.onSurface s (Plan.done [.fbClear])))

/-- A fill is one FbFill event, not expanded into cells (44 R193). -/
def planFill (c : RGB) : Plan := Plan.done [.fbFill c]

/-- FILL.P: fill with the unpacked color (44 R191). -/
def execFillP (c : Word) (s : State) : Host.Outcome State Fault Refusal :=
  .next (s.carryOut (Plan.onSurface s (planFill (unpack24 c))))

/-- FILL.RGB: fill with the three channels (44 R192). -/
def execFillRgb (r g b : Byte) (s : State) : Host.Outcome State Fault Refusal :=
  .next (s.carryOut (Plan.onSurface s (planFill ⟨r, g, b⟩)))

/-- `0 <= x < WIDTH and 0 <= y < HEIGHT` (44 R194). -/
def State.inSurface (s : State) (x y : Int) : Bool :=
  decide (0 ≤ x) && decide (x < s.width) && decide (0 ≤ y) && decide (y < s.height)

/-- The outcome of a SET_PIXEL outside the surface (44 R196): COORD_RANGE with the low halves of both coordinates while
the latched OOR_ERR is 1, else a dropped pixel. No event either way. -/
def planOutOfRange (s : State) (x y : Int) : Plan :=
  if s.latch.ctrl.oorErr then Plan.raise [] .coordRange (halves y x)
  else Plan.note s [] .diagPixelDropped

/-- SET_PIXEL at `(x, y)` with a color (44 R194, R195). -/
def planSetPixel (s : State) (x y : Int) (c : RGB) : Plan :=
  if s.inSurface x y then Plan.done [.fbSet x.toNat y.toNat c] else planOutOfRange s x y

/-- SET_PIXEL.P: the color unpacked from the third argument (44 R194). -/
def execSetPixelP (x y : Int) (c : Word) (s : State) : Host.Outcome State Fault Refusal :=
  .next (s.carryOut (Plan.onSurface s (planSetPixel s x y (unpack24 c))))

/-- SET_PIXEL.RGB: the color given by three channels (44 R195). -/
def execSetPixelRgb (x y : Int) (r g b : Byte) (s : State) : Host.Outcome State Fault Refusal :=
  .next (s.carryOut (Plan.onSurface s (planSetPixel s x y ⟨r, g, b⟩)))

/-- SET_PWM_BITS: the depth is passed to the surface unchecked (44 R197). -/
def execSetPwmBits (n : Byte) (s : State) : Host.Outcome State Fault Refusal :=
  .next (s.carryOut (Plan.onSurface s (Plan.done [.fbDepth n])))

/-- CONSTRUCT (44 R198): once per reset, then the surface's answer, then the check that it fits DIM_W bits; on success
GEOM = {h, w} and `constructed` is set (44 R199). -/
def planConstruct (s : State) (rows chain : Nat) : Plan :=
  if s.constructed then Plan.raise [] .constructFailed 1
  else
    match s.surfaceGeometry rows chain with
    | none => Plan.raise [.surfAlloc rows chain none] .constructFailed 2
    | some (w, h) =>
      if Config.dimBound ≤ w ∨ Config.dimBound ≤ h then
        Plan.raise [.surfAlloc rows chain (some (w, h)), .surfRelease] .constructFailed 3
      else
        { Plan.done [.surfAlloc rows chain (some (w, h))] with geom := some (halves h w) }

/-- CONSTRUCT, the only command performed while no surface exists (44 R198). -/
def execConstruct (rows chain : Nat) (s : State) : Host.Outcome State Fault Refusal :=
  .next (s.carryOut (planConstruct s rows chain))

end Sys2Proof.Machine
end

