-- ==== Sys2Proof/Machine/Dispatch.lean ====
section
/-! DEFINITION. The dispatch of a decoded command to its meaning. -/

namespace Sys2Proof.Machine

def exec (i : Instr) (s : State) : Host.Outcome State Fault Refusal :=
  match i with
  | .clear => Sys2Proof.Machine.execClear s
  | .fillP c => Sys2Proof.Machine.execFillP c s
  | .fillRgb r g b => Sys2Proof.Machine.execFillRgb r g b s
  | .setPixelP x y c => Sys2Proof.Machine.execSetPixelP x y c s
  | .setPixelRgb x y r g b => Sys2Proof.Machine.execSetPixelRgb x y r g b s
  | .setBuffer h => Sys2Proof.Machine.execSetBuffer h s
  | .setImage h => Sys2Proof.Machine.execSetImage h s
  | .setImageOff h dx dy => Sys2Proof.Machine.execSetImageOff h dx dy s
  | .setPwmBits n => Sys2Proof.Machine.execSetPwmBits n s
  | .construct rows chain => Sys2Proof.Machine.execConstruct rows chain s

end Sys2Proof.Machine
end

