-- ==== Sys2Proof/Machine/Engine.lean ====
section
/-! DEFINITION. The command engine's step (spec/40_command_engine.md R123) and reset (70_reset_and_hazards.md R250). -/

namespace Sys2Proof.Machine

/-- A malformed word (30 R100): NOT_CONSTRUCTED first for every opcode but CONSTRUCT's, whose malformed word fails the
construction with info 0; else a diagnosed no-op (40 R123). -/
def planMalformed (s : State) (op : Nat) : Plan :=
  if op = 7 then Plan.raise [] .constructFailed 0
  else Plan.onSurface s (Plan.note s [] .diagInvalidArgs)

/-- Perform the latched command to its completion (40 R123). ILLEGAL_CMD comes before every other check (60 R222). -/
def State.perform (s : State) : Host.Outcome State Fault Refusal :=
  match decode s.latch.cmd s.latch.args with
  | .illegal => .next (s.carryOut (Plan.raise [] .illegalCmd s.latch.cmd))
  | .malformed op => .next (s.carryOut (planMalformed s op))
  | .form i => exec i s

/-- The engine's turn: its one enabled step while `L.valid = 1`, nothing while it is idle (40 R123, 60 R236). -/
def State.engineTurn (s : State) : Host.Outcome State Fault Refusal :=
  if s.latch.valid then s.perform else .next s

/-- The events, in order, that performing the latched command issues; none while no command is in progress. -/
def State.pendingEvents (s : State) : List TraceEntry :=
  if s.latch.valid then
    match s.perform with
    | .next t => t.trace.drop s.trace.length
    | .fault _ => []
    | .refused _ => []
  else []

/-- Reset (70 R250), in one step. A command in progress is abandoned: the first `n` of its events have happened, the rest do
not, and it has no completion (R251). A constructed surface is released. The latch's cmd, args, ctrl and index,
the external stores and what was observed before stay (R252, log 4, 5, 9). -/
def State.resetBlock (s : State) (n : Nat) : State :=
  { s with
    cmd := 0
    args := Args.zero
    err := false
    ovr := false
    result := .ok
    ctrl := ⟨false, false⟩
    geom := 0
    faultInfo := 0
    clipSrc := 0
    clipDst := 0
    clipSize := 0
    wcount := 0
    latch := { s.latch with valid := false }
    constructed := false
    view := none
    trace := s.trace ++ s.pendingEvents.take n ++
      (if s.constructed then [{ command := none, event := .surfRelease }] else []) }

end Sys2Proof.Machine
end

