-- ==== Sys2Proof/Machine/HostPort.lean ====
section
/-! DEFINITION. The host's register window (spec/20_memory.md R60 to R69), the actions of the outside world, and how an
issued command stands in the latch. -/

namespace Sys2Proof.Machine

/-- A host access the block answers: 32 bits wide, aligned to 4, inside the window (20 R69). -/
def accessLegal (width off : Nat) : Bool :=
  decide (width = 32) && decide (off % 4 = 0) && decide (off < Config.windowBytes)

/-- What a host read at an offset returns (10 R22); the reserved offsets read 0 (10 R45). -/
def State.readReg (s : State) (off : Nat) : Word :=
  match off with
  | 0x00 => s.cmd
  | 0x04 => s.args.arg0
  | 0x08 => s.args.arg1
  | 0x0C => s.args.arg2
  | 0x10 => s.args.arg3
  | 0x14 => s.args.arg4
  | 0x18 => s.statusWord
  | 0x1C => s.ctrl.word
  | 0x20 => s.geom
  | 0x24 => s.faultInfo
  | 0x28 => s.clipSrc
  | 0x2C => s.clipDst
  | 0x30 => s.clipSize
  | 0x34 => s.wcount
  | _ => 0

/-- A host write to CMD: issue while BUSY = 0 (40 R120), an overrun that only sets OVR while BUSY = 1 (40 R122). -/
def State.writeCmd (s : State) (v : Word) : State :=
  if s.busy then { s with ovr := true } else s.issue v

/-- A host write at an offset (10 R22, 20 R60): read-only registers and reserved offsets ignore it (10 R45). ARG and CTRL
writes are stored also while BUSY = 1 (40 R121). -/
def State.writeReg (s : State) (off : Nat) (v : Word) : State :=
  match off with
  | 0x00 => s.writeCmd v
  | 0x04 => { s with args := { s.args with arg0 := v } }
  | 0x08 => { s with args := { s.args with arg1 := v } }
  | 0x0C => { s with args := { s.args with arg2 := v } }
  | 0x10 => { s with args := { s.args with arg3 := v } }
  | 0x14 => { s with args := { s.args with arg4 := v } }
  | 0x18 => s.writeStatus v
  | 0x1C => { s with ctrl := Ctrl.ofWord v }
  | _ => s

/-- The host reads a register: nothing of the block changes (20 R60), and the value is on the host's record. -/
def State.hostRead (s : State) (off : Nat) : State :=
  { s with readLog := s.readLog ++ [(off, s.readReg off)] }

/-- One read of STATUS of a host that waits for BUSY = 0 (30 R103). While BUSY = 1 the host reads again, after the engine
has had its turn (40 R125; log 7). -/
def State.pollStatus (s : State) : State :=
  if s.busy then { s.hostRead 0x18 with agenda := .engine :: .poll :: s.agenda } else s.hostRead 0x18

/-- One action of the outside world, or the engine's turn. -/
def applyInput (e : Input) (s : State) : Host.Outcome State Fault Refusal :=
  match e with
  | .read width off =>
    if accessLegal width off then .next (s.hostRead off) else .fault (.busError ⟨false, width, off⟩)
  | .write width off v =>
    if accessLegal width off then .next (s.writeReg off v) else .fault (.busError ⟨true, width, off⟩)
  | .poll => .next s.pollStatus
  | .engine => s.engineTurn
  | .engineWithStatusWrite v => (s.writeStatus v).engineTurn
  | .reset n => .next (s.resetBlock n)
  | .setImage h r => .next (s.setImage h r)
  | .setBuffer h b => .next (s.setBuffer h b)
  | .foreignSurfaceWrite _ _ _ => .refused .surfaceNotExclusive

/-- One step of the machine: the first pending action of the outside world, or, when there is none, the engine's turn
(log 6). -/
def nextStep (s : State) : Host.Outcome State Fault Refusal :=
  match s.agenda with
  | [] => s.engineTurn
  | e :: rest => applyInput e { s with agenda := rest }

/-- The state in which the given command has just been issued and the engine's turn is next: CMD, the ARG registers and the
latch hold its words as the host's writes and the issue would leave them (40 R120; log 10). -/
def State.withIssued (s : State) (words : Word × Args) : State :=
  { ({ s with args := words.2 }).issue words.1 with agenda := .engine :: s.agenda }

end Sys2Proof.Machine
end

