-- ==== Sys2Proof/Machine/Step.lean ====
section
/-! DEFINITION. The machine's step, and where a command stands that the next step performs. -/

namespace Sys2Proof.Machine

/-- One step of the machine. -/
def step (s : State) : Host.Outcome State Fault Refusal := nextStep s

/-- The opcode-table word placed where the engine takes its next command from: the command latch (40 R123). The block
fetches no instruction (10 R41); a host's writes put a command there (log 10). -/
def State.withFetchWord (s : State) (nbits w : Nat) : State := s.withIssued (splitWords nbits w)

end Sys2Proof.Machine
end

