-- ==== Sys2Proof/Machine/Program.lean ====
section
/-! DEFINITION. The command programs of spec/30_encoding.md R102 and R103: a line of assembly stands for host accesses. -/

namespace Sys2Proof.Machine

/-- The mnemonics of 30 R102. -/
inductive Mnemonic where
  | clear
  | fill
  | setpix
  | setbuf
  | setimg
  | pwmbits
  | construct
deriving DecidableEq, Repr

/-- A program line (30 R102, R103): a command with its operands, RAW, WR, RD or WAIT. -/
inductive Line where
  | command (m : Mnemonic) (operands : List Int)
  | raw (w : Word)
  | wr (off : Nat) (v : Word)
  | rd (off : Nat)
  | wait
deriving DecidableEq, Repr

/-- The command word that a mnemonic and its operand count select (30 R102, R93); nothing for a count no form has. -/
def assembledWord (m : Mnemonic) (n : Nat) : Option Word :=
  match m, n with
  | .clear, 0 => some 0x00000001
  | .fill, 1 => some 0x00000102
  | .fill, 3 => some 0x00000302
  | .setpix, 3 => some 0x00000303
  | .setpix, 5 => some 0x00000503
  | .setbuf, 1 => some 0x00000104
  | .setimg, 1 => some 0x00000105
  | .setimg, 3 => some 0x00000305
  | .pwmbits, 1 => some 0x00000106
  | .construct, 2 => some 0x00000207
  | _, _ => none

/-- The mnemonic and the operands of a command, in the order of 30 R96 (30 R102). -/
def assemblyOf : Instr → Mnemonic × List Int
  | .clear => (.clear, [])
  | .fillP c => (.fill, [c.toNat])
  | .fillRgb r g b => (.fill, [r.toNat, g.toNat, b.toNat])
  | .setPixelP x y c => (.setpix, [x, y, c.toNat])
  | .setPixelRgb x y r g b => (.setpix, [x, y, r.toNat, g.toNat, b.toNat])
  | .setBuffer h => (.setbuf, [h.toNat])
  | .setImage h => (.setimg, [h.toNat])
  | .setImageOff h dx dy => (.setimg, [h.toNat, dx, dy])
  | .setPwmBits n => (.pwmbits, [n.toNat])
  | .construct rows chain => (.construct, [rows, chain])

/-- The writes of the operands, from the first, to ARG0, ARG1, … at offsets `off`, `off + 4`, …; a negative operand stands
for its 32-bit two's complement (30 R102, R103). -/
def operandWrites (off : Nat) : List Int → List Input
  | [] => []
  | v :: rest => .write 32 off (BitVec.ofInt 32 v) :: operandWrites (off + 4) rest

/-- The host accesses a line expands into (30 R103): the operand writes, the CMD write, then STATUS reads until BUSY = 0;
nothing for a line that selects no form. -/
def expandLine : Line → Option (List Input)
  | .command m operands =>
    match assembledWord m operands.length with
    | some w => some (operandWrites 0x04 operands ++ [.write 32 0x00 w, .poll])
    | none => none
  | .raw w => some [.write 32 0x00 w, .poll]
  | .wr off v => some [.write 32 off v]
  | .rd off => some [.read 32 off]
  | .wait => some [.poll]

/-- The host accesses of a program; nothing if one of its lines has none. -/
def expandProgram : List Line → Option (List Input)
  | [] => some []
  | l :: rest =>
    match expandLine l, expandProgram rest with
    | some a, some b => some (a ++ b)
    | _, _ => none

end Sys2Proof.Machine
end

