-- ==== Sys2Proof/Safety.lean ====
section
/-! DEFINITION. The terms that statements about the block use: the invariant of its states, what a completion writes, what
a command leaves as it was, and which pending host actions never end a run. -/

namespace Sys2Proof.Machine

/-- The view is in canonical form and lists only cells of the surface (10 R40, 45 R215). -/
def State.viewSound (s : State) : Bool :=
  match s.view with
  | none => true
  | some v => v.wf && v.inside s.width s.height

/-- No index on the trace reaches the next command's: the events of the latched command come later (20 R74). -/
def State.tagBound (s : State) : Nat := if s.latch.valid then s.latch.index else s.issued

/-- The tag is below the bound, or there is none. -/
def TraceEntry.tagBelow (n : Nat) (e : TraceEntry) : Bool :=
  match e.command with
  | some k => decide (k < n)
  | none => true

/-- The keys of both stores rise. -/
def Stores.wf (t : Stores) : Bool := tabRising t.images && tabRising t.buffers

/-- The invariant of the block's states. A view exists exactly while `constructed = 1` (10 R40); GEOM is 0 while it is not
(10 R32); the view is sound; FAULT_INFO is 0 after a completion that is no error (10 R33); the latched command's index
was given out, and no event on the trace carries it or a later one (20 R74, R76); the stores are canonical. -/
def State.inv (s : State) : Bool :=
  (s.view.isSome == s.constructed) &&
  (s.constructed || decide (s.geom = 0)) &&
  s.viewSound &&
  (s.result.isError || decide (s.faultInfo = 0)) &&
  (!s.latch.valid || decide (s.latch.index < s.issued)) &&
  s.trace.all (TraceEntry.tagBelow s.tagBound) &&
  s.stores.wf

/-- The commands' events stand on the trace command by command: the tags never fall (20 R74, 45 R211). -/
def State.traceOrdered (s : State) : Prop := (s.trace.filterMap TraceEntry.command).Pairwise (· ≤ ·)

/-- From `s` to `t` the trace grew by these events, tagged with the latched command's index (45 R214). -/
def EventsAppended (s t : State) (evs : List Event) : Prop :=
  t.trace = s.trace ++ evs.map (fun e => { command := some s.latch.index, event := e })

/-- `t` is `s` with the registers of a completion written (00 R14, 10 R26, R27, R35): RESULT, FAULT_INFO, WCOUNT = `n`,
ERR set by an error and kept otherwise, BUSY cleared, the rest of the latch kept. -/
def Completed (s t : State) (code : Result) (info : Word) (n : Nat) : Prop :=
  t.result = code ∧ t.faultInfo = info ∧ t.wcount = BitVec.ofNat 32 n ∧
    t.err = (s.err || code.isError) ∧ t.latch = { s.latch with valid := false }

/-- The cells that the FbSet events among `evs` write, in order (45 R212). -/
def writtenCells (evs : List Event) : List (Nat × Nat) :=
  evs.filterMap (fun e => match e with
    | .fbSet x y _ => some (x, y)
    | _ => none)

/-- The events of a blit of the pixels `ps`, all written (43 R170): the descriptor read, then for each pixel its PixRead,
its palette reads and its FbSet. -/
def blitEvents (h : Word) (c : Clip) (reads : Nat × Nat → List Event) (rgb : Nat × Nat → RGB)
    (ps : List (Nat × Nat)) : List Event :=
  .imgDesc h :: ps.flatMap (fun p =>
    .pixRead h (c.source p).1 (c.source p).2 :: (reads p ++ [.fbSet (c.target p).1 (c.target p).2 (rgb p)]))

/-- The events of a SET_BUFFER that copies (42 R150): the length read, then row by row the three byte reads and the FbSet
of every cell of a surface of `w` columns and `h` rows. -/
def copyEvents (handle : Word) (w h : Nat) (color : Nat → Nat → RGB) : List Event :=
  .bufLen handle :: (List.range h).flatMap (fun y => (List.range w).flatMap (fun x =>
    [.bufRead handle (3 * (y * w + x)), .bufRead handle (3 * (y * w + x) + 1),
     .bufRead handle (3 * (y * w + x) + 2), .fbSet x y (color x y)]))

/-- What no command writes: CMD, the ARG registers, OVR, CTRL, the command count, the external stores and geometry, the
pending actions and the host's record. -/
def OutsideKept (s t : State) : Prop :=
  t.cmd = s.cmd ∧ t.args = s.args ∧ t.ovr = s.ovr ∧ t.ctrl = s.ctrl ∧ t.issued = s.issued ∧
    t.stores = s.stores ∧ t.earlier = s.earlier ∧ t.geometry = s.geometry ∧ t.agenda = s.agenda ∧
    t.readLog = s.readLog

/-- CLIP_SRC, CLIP_DST and CLIP_SIZE are as before (10 R34). -/
def ClipKept (s t : State) : Prop :=
  t.clipSrc = s.clipSrc ∧ t.clipDst = s.clipDst ∧ t.clipSize = s.clipSize

/-- CLIP_SRC, CLIP_DST and CLIP_SIZE hold these values (10 R34). -/
def ClipIs (t : State) (src dst size : Word) : Prop :=
  t.clipSrc = src ∧ t.clipDst = dst ∧ t.clipSize = size

/-- GEOM and `constructed` are as before (44 R199, R200). -/
def SurfaceKept (s t : State) : Prop := t.geom = s.geom ∧ t.constructed = s.constructed

/-- Every cell reads as before (10 R40). -/
def CellsKept (s t : State) : Prop := ∀ x y, t.fb x y = s.fb x y

/-- Every cell but those of `cells` reads as before. -/
def CellsKeptBut (s t : State) (cells : List (Nat × Nat)) : Prop :=
  ∀ x y, (x, y) ∉ cells → t.fb x y = s.fb x y

/-- A pending action that the block answers: no bus error (20 R69) and no foreign write to the surface (70 R263). -/
def Input.harmless : Input → Bool
  | .read width off => accessLegal width off
  | .write width off _ => accessLegal width off
  | .poll => true
  | .engine => true
  | .engineWithStatusWrite _ => true
  | .reset _ => true
  | .setImage _ _ => true
  | .setBuffer _ _ => true
  | .foreignSurfaceWrite _ _ _ => false

/-- The accepted pairs of OPCODE and NARGS (30 R92). -/
def acceptedShapes : List (Nat × Nat) :=
  [(1, 0), (2, 1), (2, 3), (3, 3), (3, 5), (4, 1), (5, 1), (5, 3), (6, 1), (7, 2)]

/-- The argument words in order, ARG0 first. -/
def argumentList (a : Args) : List Word := [a.arg0, a.arg1, a.arg2, a.arg3, a.arg4]

/-- The channels of a packed color, by arithmetic (41 R140): R in bits 23:16, G in 15:8, B in 7:0. -/
def packedRgb (c : Word) : RGB :=
  ⟨BitVec.ofNat 8 (c.toNat / 65536), BitVec.ofNat 8 (c.toNat / 256), BitVec.ofNat 8 c.toNat⟩

/-- The command is SET_IMAGE.OFF of handle `h` at `(dx, dy)`, or SET_IMAGE of it and the offset is (0, 0) (43 R170). -/
def IsSetImage (i : Instr) (h : Word) (dx dy : Int) : Prop :=
  i = .setImageOff h dx dy ∨ (i = .setImage h ∧ dx = 0 ∧ dy = 0)

/-- The command is a SET_PIXEL at `(x, y)` whose color is `c`, packed or given by channels (44 R194, R195). -/
def IsSetPixel (i : Instr) (x y : Int) (c : RGB) : Prop :=
  (∃ w, i = .setPixelP x y w ∧ c = packedRgb w) ∨ i = .setPixelRgb x y c.r c.g c.b

/-- CLIP_SRC, CLIP_DST and CLIP_SIZE hold the clip's values, each in its 16 bits (10 R34). -/
def ClipShown (t : State) (c : Clip) : Prop :=
  (t.clipSrc.toNat : Int) = c.sy * 65536 + c.sx ∧ (t.clipDst.toNat : Int) = c.dy * 65536 + c.dx ∧
    (t.clipSize.toNat : Int) = c.h * 65536 + c.w

/-- The run of `k` steps from `s` neither faults nor is refused. -/
def SafeRun (k : Nat) (s : State) : Prop := ∃ t, Sys2Proof.core.run k s = .next t

end Sys2Proof.Machine
end

