-- ==== Sys2Proof/WellFormed.lean ====
section
/-! DEFINITION. Which commands have an encoding: every coord operand is an s32 and every count a u32
(spec/30_encoding.md R95); the other operand kinds are words or bytes by their types. -/

namespace Sys2Proof

/-- A coord fits 32-bit two's complement: the range of `s32` (00 R10, 30 R95). -/
def coordFits (x : Int) : Bool := decide (-2147483648 ≤ x) && decide (x < 2147483648)

/-- A count fits an unsigned 32-bit word: the range of `u32` (00 R10, 30 R95). -/
def countFits (n : Nat) : Bool := decide (n < 4294967296)

/-- Every operand of the command fits the argument word that carries it. -/
def Instr.wellFormed : Instr → Bool
  | .clear => true
  | .fillP _ => true
  | .fillRgb _ _ _ => true
  | .setPixelP x y _ => coordFits x && coordFits y
  | .setPixelRgb x y _ _ _ => coordFits x && coordFits y
  | .setBuffer _ => true
  | .setImage _ => true
  | .setImageOff _ dx dy => coordFits dx && coordFits dy
  | .setPwmBits _ => true
  | .construct rows chain => countFits rows && countFits chain

end Sys2Proof
end

