-- ==== Sys2Proof/Certificates/Slice0/Obligations.lean ====
section
/-! DEFINITION. The statements about the blit core, from the numbered rules of spec/. A docstring names the rules a
statement comes from, and the log entries where a clause is the model's own choice. -/

open Sys2Proof Sys2Proof.Machine

/-! ### Encoding -/

/-- 30 R93, R95, R96: decoding the words of a command whose operands fit gives the command back, every operand whole. -/
def Obligations.DecodeOfEncodeIsTheCommand : Prop :=
  ∀ i : Instr, i.wellFormed = true → decode (encode i).1 (encode i).2 = .form i

/-- 30 R93: a form is selected only by its whole 32-bit word. -/
def Obligations.FormSelectedOnlyByItsWholeWord : Prop :=
  ∀ (w : Word) (a : Args) (i : Instr), decode w a = .form i → w = commandWord i

/-- 30 R94 (with R92, R99, R100): the verdict of every word, from its bits. -/
def Obligations.EveryWordHasItsVerdict : Prop :=
  ∀ (w : Word) (a : Args),
    (w.toNat / 4096 ≠ 0 ∨ w.toNat % 256 = 0 ∨ 7 < w.toNat % 256 → decode w a = .illegal) ∧
    (w.toNat / 4096 = 0 → w.toNat % 256 ≠ 0 → w.toNat % 256 ≤ 7 →
      ((w.toNat % 256, w.toNat / 256) ∈ acceptedShapes → ∃ i, decode w a = .form i ∧ commandWord i = w) ∧
      ((w.toNat % 256, w.toNat / 256) ∉ acceptedShapes → decode w a = .malformed (w.toNat % 256)))

/-- 30 R93, R96: words written out from the tables decode to their forms; channels keep only their low byte and
coordinates their sign (R95). -/
def Obligations.TableWordsDecode : Prop :=
  decode 0x00000001 ⟨1, 2, 3, 4, 5⟩ = .form .clear ∧
  decode 0x00000102 ⟨0xFF102030, 0, 0, 0, 0⟩ = .form (.fillP 0xFF102030) ∧
  decode 0x00000302 ⟨256, 0, 511, 0, 0⟩ = .form (.fillRgb 0 0 255) ∧
  decode 0x00000503 ⟨3, 0xFFFFFFFF, 300, 20, 40⟩ = .form (.setPixelRgb 3 (-1) 44 20 40) ∧
  decode 0x00000305 ⟨7, 0x80000000, 1, 0, 0⟩ = .form (.setImageOff 7 (-2147483648) 1) ∧
  decode 0x00000106 ⟨0x107, 0, 0, 0, 0⟩ = .form (.setPwmBits 7) ∧
  decode 0x00000207 ⟨70000, 1, 0, 0, 0⟩ = .form (.construct 70000 1)

/-- 30 R97: two latched commands whose words agree, and whose argument words agree as far as NARGS counts them, are
performed alike; the argument words the form does not read have no effect. -/
def Obligations.UnlistedArgumentsHaveNoEffect : Prop :=
  ∀ (s t : State) (a : Args),
    (argumentList a).take (s.latch.cmd.toNat / 256 % 16) =
      (argumentList s.latch.args).take (s.latch.cmd.toNat / 256 % 16) →
    s.perform = .next t →
    State.perform { s with latch := { s.latch with args := a } } =
      .next { t with latch := { t.latch with args := a } }

/-- 30 R102, R103: the register writes that a command's assembly line expands into, ending with its CMD write, leave the
command in the latch. -/
def Obligations.AssembledLineIssuesItsCommand : Prop :=
  ∀ (i : Instr) (s : State), i.wellFormed = true → s.busy = false →
    ∃ writes t, expandLine (.command (assemblyOf i).1 (assemblyOf i).2) = some (writes ++ [.poll]) ∧
      Sys2Proof.core.run writes.length { s with agenda := writes ++ [.poll] } = .next t ∧
      t.latch.valid = true ∧ t.agenda = [.poll] ∧ decode t.latch.cmd t.latch.args = .form i

/-! ### The engine's step -/

/-- 40 R123: with a well-formed command in the valid latch, the step in which the engine has its turn runs exactly that command:
at once when no action of the outside world is pending, and where the pending action is the engine's turn, with that
action taken off (log 6). -/
def Obligations.StepPerformsTheLatchedCommand : Prop :=
  ∀ (s : State) (i : Instr), s.latch.valid = true → decode s.latch.cmd s.latch.args = .form i →
    (s.agenda = [] → step s = exec i s) ∧
    (∀ rest, s.agenda = .engine :: rest → step s = exec i { s with agenda := rest })

/-- 60 R222 with 30 R99: every illegal word completes with ILLEGAL_CMD and the word itself, without an event, whatever
else holds, and writes only the completion registers. -/
def Obligations.IllegalWordCompletesWithIllegalCmd : Prop :=
  ∀ s : State, s.latch.valid = true →
    (s.latch.cmd.toNat / 4096 ≠ 0 ∨ s.latch.cmd.toNat % 256 = 0 ∨ 7 < s.latch.cmd.toNat % 256) →
    ∃ t, s.engineTurn = .next t ∧ Completed s t .illegalCmd s.latch.cmd 0 ∧ EventsAppended s t [] ∧
      t.view = s.view ∧ ClipKept s t ∧ SurfaceKept s t ∧ OutsideKept s t

/-- 30 R100 in the order of 40 R123: a malformed word of OPCODE 0x01..0x06 is a diagnosed no-op on a surface and
NOT_CONSTRUCTED without one; a malformed CONSTRUCT fails with info 0. No event in any case. -/
def Obligations.MalformedWordHasNoEvent : Prop :=
  ∀ s : State, s.latch.valid = true →
    s.latch.cmd.toNat / 4096 = 0 → s.latch.cmd.toNat % 256 ≠ 0 → s.latch.cmd.toNat % 256 ≤ 7 →
    (s.latch.cmd.toNat % 256, s.latch.cmd.toNat / 256) ∉ acceptedShapes →
    ∃ t, s.engineTurn = .next t ∧
      Completed s t
        (if s.latch.cmd.toNat % 256 = 7 then .constructFailed
         else if s.constructed = false then .notConstructed
         else if s.latch.ctrl.diagEn = true then .diagInvalidArgs else .ok) 0 0 ∧
      EventsAppended s t [] ∧ t.view = s.view ∧ ClipKept s t ∧ SurfaceKept s t ∧ OutsideKept s t

/-- 40 R123: while no surface is constructed every command but CONSTRUCT completes with NOT_CONSTRUCTED and nothing else
happens. -/
def Obligations.CommandsWithoutSurfaceAreNotConstructed : Prop :=
  ∀ (s : State) (i : Instr), (∀ rows chain, i ≠ .construct rows chain) → s.constructed = false →
    ∃ t, exec i s = .next t ∧ Completed s t .notConstructed 0 0 ∧ EventsAppended s t [] ∧
      t.view = s.view ∧ ClipKept s t ∧ SurfaceKept s t ∧ OutsideKept s t

/-- 40 R125, R126, 10 R35: the engine's turn completes an issued command, whatever its word; WCOUNT is exactly the number of its
FbSet events; without an issued command the turn changes nothing. -/
def Obligations.EveryIssuedCommandCompletesOnce : Prop :=
  ∀ s : State,
    (s.latch.valid = true → ∃ t evs, s.engineTurn = .next t ∧ t.busy = false ∧ EventsAppended s t evs ∧
      t.wcount.toNat = fbSets evs ∧ OutsideKept s t) ∧
    (s.latch.valid = false → s.engineTurn = .next s)

/-- 60 R223: DIAG_EN changes nothing of a command but a result code below 0x8: the same events, view and registers. -/
def Obligations.DiagnosticsChangeOnlyTheCode : Prop :=
  ∀ (i : Instr) (s t : State) (b : Bool), exec i s = .next t →
    ∃ t', exec i { s with latch := { s.latch with ctrl := { s.latch.ctrl with diagEn := b } } } = .next t' ∧
      t'.trace = t.trace ∧ t'.view = t.view ∧ t'.faultInfo = t.faultInfo ∧ t'.wcount = t.wcount ∧
      t'.err = t.err ∧ ClipKept t t' ∧ SurfaceKept t t' ∧ OutsideKept t t' ∧
      (t'.result ≠ t.result → t.result.isError = false ∧ t'.result.isError = false)

/-! ### The register window -/

/-- 40 R120, R122: a CMD write while BUSY = 0 issues the word (the command index and the stores' record are the model's own,
log 5, 8); while BUSY = 1 it sets OVR and changes nothing else. -/
def Obligations.CmdWriteIssuesOrOverruns : Prop :=
  ∀ (s : State) (w : Word),
    (s.busy = false → applyInput (.write 32 0x00 w) s = .next { s with
      cmd := w
      latch := { valid := true, cmd := w, args := s.args, ctrl := s.ctrl, index := s.issued }
      issued := s.issued + 1
      earlier := [] }) ∧
    (s.busy = true → applyInput (.write 32 0x00 w) s = .next { s with ovr := true })

/-- 10 R27: ERR is set by a completion with a code of 0x8 or above and kept by every other completion; a host write with bit 1
set clears it, one with bit 1 clear keeps it; a set and a clear in one step set it. -/
def Obligations.ErrIsStickyUntilCleared : Prop :=
  (∀ s t : State, s.latch.valid = true → s.engineTurn = .next t →
    (8 ≤ t.result.code.toNat → t.err = true) ∧ (t.result.code.toNat < 8 → t.err = s.err)) ∧
  (∀ (s t : State) (v : Word), applyInput (.write 32 0x18 v) s = .next t →
    t.err = if v.toNat / 2 % 2 = 1 then false else s.err) ∧
  (∀ (s t : State) (v : Word), s.latch.valid = true → applyInput (.engineWithStatusWrite v) s = .next t →
    (8 ≤ t.result.code.toNat → t.err = true) ∧
    (t.result.code.toNat < 8 → t.err = if v.toNat / 2 % 2 = 1 then false else s.err))

/-- 10 R28, R26, R29, R30, R45: a STATUS write clears OVR by its bit 2 and leaves BUSY, CONSTRUCTED, RESULT and everything else but
ERR as it was. -/
def Obligations.StatusWriteClearsOnlyItsFlags : Prop :=
  ∀ (s : State) (v : Word), applyInput (.write 32 0x18 v) s = .next { s with
    err := if v.toNat / 2 % 2 = 1 then false else s.err
    ovr := if v.toNat / 4 % 2 = 1 then false else s.ovr }

/-- 10 R25: the STATUS word as a number: BUSY, ERR, OVR and CONSTRUCTED in bits 0 to 3, RESULT in bits 11:8, 0 in all others. -/
def Obligations.StatusWordLayout : Prop :=
  ∀ s : State, (s.readReg 0x18).toNat =
    s.busy.toNat + 2 * s.err.toNat + 4 * s.ovr.toNat + 8 * s.constructed.toNat + 256 * s.result.code.toNat

/-- 10 R24, 40 R121: a write to ARG`k` stores the word, also while BUSY = 1: it reads back, every other register reads as
before, and the latch is untouched. -/
def Obligations.ArgWriteIsStoredNotLatched : Prop :=
  ∀ (s : State) (k : Nat) (v : Word), k < 5 →
    ∃ t, applyInput (.write 32 (4 + 4 * k) v) s = .next t ∧ t.readReg (4 + 4 * k) = v ∧
      (∀ off, off ≠ 4 + 4 * k → t.readReg off = s.readReg off) ∧ t = { s with args := t.args }

/-- 10 R31, R45: a CTRL write stores its two low bits, the others read 0, and the latched copy is untouched. -/
def Obligations.CtrlWriteStoresTwoBits : Prop :=
  ∀ (s : State) (v : Word), ∃ t, applyInput (.write 32 0x1C v) s = .next t ∧
    (t.readReg 0x1C).toNat = v.toNat % 4 ∧ t.ctrl.diagEn = (v.toNat % 2 == 1) ∧ t = { s with ctrl := t.ctrl }

/-- 10 R45: writes to the read-only registers and to the reserved offsets change nothing, and the reserved offsets read 0. -/
def Obligations.ReadOnlyAndReservedIgnoreWrites : Prop :=
  ∀ (s : State) (off : Nat) (v : Word), 0x20 ≤ off → off < 0x40 → off % 4 = 0 →
    applyInput (.write 32 off v) s = .next s ∧ (off = 0x38 ∨ off = 0x3C → s.readReg off = 0)

/-- 20 R60: a legal read changes nothing of the block; the host's record gets the value (the record is the model's own, log 6). -/
def Obligations.HostReadHasNoSideEffect : Prop :=
  ∀ (s : State) (off : Nat), off < 64 → off % 4 = 0 →
    applyInput (.read 32 off) s = .next { s with readLog := s.readLog ++ [(off, s.readReg off)] }

/-- 20 R69: an access that is not 32 bits wide, not aligned or outside the window is a bus error that names it; every other
access has a next state. -/
def Obligations.BusErrorExactlyOnIllegalAccess : Prop :=
  ∀ (s : State) (width off : Nat) (v : Word),
    (width ≠ 32 ∨ off % 4 ≠ 0 ∨ 64 ≤ off →
      applyInput (.read width off) s = .fault (.busError ⟨false, width, off⟩) ∧
      applyInput (.write width off v) s = .fault (.busError ⟨true, width, off⟩)) ∧
    (width = 32 → off % 4 = 0 → off < 64 →
      (∃ t, applyInput (.read width off) s = .next t) ∧ (∃ t, applyInput (.write width off v) s = .next t))

/-! ### Reset -/

/-- 70 R250: a reset before any event of a command in progress: every register reads 0, nothing is constructed, no command is in
progress, a surface that existed is released, and nothing else is observed. -/
def Obligations.ResetClearsTheBlock : Prop :=
  ∀ s : State, ∃ t, applyInput (.reset 0) s = .next t ∧ (∀ off, t.readReg off = 0) ∧ t.busy = false ∧
    t.constructed = false ∧ t.view = none ∧
    t.trace = s.trace ++ (if s.constructed = true then [{ command := none, event := .surfRelease }] else [])

/-- 70 R251: a reset after the first `n` events of the command in progress: exactly those have happened, the command has no
completion, and every register reads 0 (that the count `n` comes with the reset, and that the SurfRelease has no command
index, is the model's own, log 9, 5). -/
def Obligations.ResetAbandonsTheCommand : Prop :=
  ∀ (s t : State) (evs : List Event) (n : Nat), s.latch.valid = true → s.engineTurn = .next t →
    EventsAppended s t evs → n ≤ evs.length →
    ∃ u, applyInput (.reset n) s = .next u ∧
      u.trace = s.trace ++ (evs.take n).map (fun e => { command := some s.latch.index, event := e }) ++
        (if s.constructed = true then [{ command := none, event := .surfRelease }] else []) ∧
      (∀ off, u.readReg off = 0) ∧ u.busy = false ∧ u.view = none

/-- 10 R46: the state after power-on reset: every register reads 0, no command in progress, no surface and no view. -/
def Obligations.PowerOnStateIsAllZero : Prop :=
  (∀ off, State.reset.readReg off = 0) ∧ State.reset.latch.valid = false ∧ State.reset.constructed = false ∧
    State.reset.view = none

/-! ### Codec, clipper and pixel formats -/

/-- 41 R142: the round trip of the codec, in both directions. -/
def Obligations.CodecRoundTrip : Prop :=
  (∀ c : RGB, unpack24 (pack24 c) = c) ∧ (∀ w : Word, pack24 (unpack24 w) = w &&& 0x00FFFFFF)

/-- 43 R164: the closed form of the clip, on every axis size, image size and offset; the visible columns and rows are those of
the requested span that lie on the surface. -/
def Obligations.ClipClosedForm : Prop :=
  ∀ mw mh w0 h0 dx0 dy0 : Int,
    let c := clip mw mh w0 h0 dx0 dy0
    c = { sx := max (-dx0) 0, sy := max (-dy0) 0, dx := max dx0 0, dy := max dy0 0,
          w := min (dx0 + w0) mw - max dx0 0, h := min (dy0 + h0) mh - max dy0 0 } ∧
      (∀ k, (c.dx ≤ k ∧ k < c.dx + c.w) ↔ (dx0 ≤ k ∧ k < dx0 + w0 ∧ 0 ≤ k ∧ k < mw)) ∧
      (∀ k, (c.dy ≤ k ∧ k < c.dy + c.h) ↔ (dy0 ≤ k ∧ k < dy0 + h0 ∧ 0 ≤ k ∧ k < mh))

/-- 43 R165: every visible pixel of a clip has its destination on the surface and its source in the image, and distinct pixels have
distinct destinations; the visible pixels are those below the visible width and height, in row-major order (00 R15). -/
def Obligations.ClipBounds : Prop :=
  ∀ (s : State) (img : ImageRec) (dx0 dy0 : Int),
    let c := s.imageClip img dx0 dy0
    c.degenerate = false →
      (∀ p, p ∈ c.pixels ↔ ((p.1 : Int) < c.w ∧ (p.2 : Int) < c.h)) ∧
      (∀ p ∈ c.pixels, (c.target p).1 < s.width ∧ (c.target p).2 < s.height ∧
        (c.source p).1 < img.width.toNat ∧ (c.source p).2 < img.height.toNat ∧
        ((c.target p).1 : Int) = c.dx + p.1 ∧ ((c.target p).2 : Int) = c.dy + p.2 ∧
        ((c.source p).1 : Int) = c.sx + p.1 ∧ ((c.source p).2 : Int) = c.sy + p.2) ∧
      (∀ p q : Nat × Nat, c.target p = c.target q → p = q) ∧ c.pixels.Nodup ∧
      c.pixels.Pairwise (fun p q => p.2 < q.2 ∨ (p.2 = q.2 ∧ p.1 < q.1))

/-- 43 R176, R178, R179, R183: format code 0 is TrueColor, 1 is Bitmap1 and 2 is Palette8. A TrueColor pixel has R in its bits
7:0, G in 15:8 and B in 23:16, its bits 31:24 are ignored; a Bitmap1 pixel is white unless its low byte is 0. -/
def Obligations.TrueColorAndBitmapDecode : Prop :=
  (∀ p : Word,
    decodeTrueColor p =
      ⟨BitVec.ofNat 8 p.toNat, BitVec.ofNat 8 (p.toNat / 256), BitVec.ofNat 8 (p.toNat / 65536)⟩ ∧
    decodeBitmap1 p = if p.toNat % 256 = 0 then ⟨0, 0, 0⟩ else ⟨255, 255, 255⟩) ∧
  (∀ (s : State) (h : Word) (img : ImageRec) (p : Word) (xs ys : Nat),
    (img.format = 0 → decodePixel s h img p xs ys = .color [] (decodeTrueColor p)) ∧
    (img.format = 1 → decodePixel s h img p xs ys = .color [] (decodeBitmap1 p)) ∧
    (img.format = 2 → decodePixel s h img p xs ys = decodePalette8 s h img p xs ys))

/-- 43 R180, R181: a Palette8 pixel of an unchanged image takes the three palette bytes of its index, R, G, B in that order,
when the index is below the palette length, and is out of the palette otherwise. -/
def Obligations.Palette8Decode : Prop :=
  ∀ (s : State) (h : Word) (img : ImageRec) (p : Word) (xs ys : Nat), s.imageStable h = true →
    let k := p.toNat % 256
    (img.palLen ≤ k → decodePalette8 s h img p xs ys = .outOfPalette) ∧
    (k < img.palLen → ∃ r g b, img.palette[k * 3]? = some r ∧ img.palette[k * 3 + 1]? = some g ∧
      img.palette[k * 3 + 2]? = some b ∧
      decodePalette8 s h img p xs ys =
        .color [.palRead h (k * 3), .palRead h (k * 3 + 1), .palRead h (k * 3 + 2)] ⟨r, g, b⟩)

/-! ### SET_BUFFER -/

/-- 42 R150, R153, 00 R15, 20 R75: a buffer of exactly the surface's size is copied cell by cell, after the BufLen event in
row-major order, for each cell three BufReads and the one FbSet that writes it. While the buffer is unchanged since the issue
(70 R262) every cell `(x, y)` holds the bytes at `3 * (y * WIDTH + x)`, whatever it held before. -/
def Obligations.SetBufferCopiesTheBuffer : Prop :=
  ∀ (s : State) (h : Word) (buf : List Byte), s.inv = true → s.constructed = true →
    s.bufDesc h = some buf → buf.length = s.width * s.height * 3 →
    ∃ (t : State) (color : Nat → Nat → RGB), exec (.setBuffer h) s = .next t ∧
      Completed s t .ok 0 (s.width * s.height) ∧
      EventsAppended s t (copyEvents h s.width s.height color) ∧
      (writtenCells (copyEvents h s.width s.height color)).Nodup ∧
      (∀ x y, (x, y) ∈ writtenCells (copyEvents h s.width s.height color) ↔ x < s.width ∧ y < s.height) ∧
      (∀ x y, x < s.width → y < s.height → t.fb x y = some (color x y)) ∧
      (s.bufferStable h = true → s.stores.buffer h = some buf ∧ ∀ x y, x < s.width → y < s.height →
        buf[3 * (y * s.width + x)]? = some (color x y).r ∧ buf[3 * (y * s.width + x) + 1]? = some (color x y).g ∧
        buf[3 * (y * s.width + x) + 2]? = some (color x y).b) ∧
      ClipKept s t ∧ SurfaceKept s t ∧ OutsideKept s t

/-- 42 R150, R152: a buffer that BufLen finds missing or of a wrong length is reported, whatever DIAG_EN holds, after the `BufLen`
event alone, and every cell stays as it was. -/
def Obligations.SetBufferFailsBeforeAnyWrite : Prop :=
  ∀ (s : State) (h : Word), s.constructed = true →
    (s.bufDesc h = none → ∃ t, exec (.setBuffer h) s = .next t ∧ Completed s t .badHandle h 0 ∧
      EventsAppended s t [.bufLen h] ∧ CellsKept s t ∧ ClipKept s t ∧ SurfaceKept s t ∧ OutsideKept s t) ∧
    (∀ buf, s.bufDesc h = some buf → buf.length ≠ s.width * s.height * 3 →
      ∃ t, exec (.setBuffer h) s = .next t ∧ Completed s t .sizeMismatch (BitVec.ofNat 32 buf.length) 0 ∧
        EventsAppended s t [.bufLen h] ∧ CellsKept s t ∧ ClipKept s t ∧ SurfaceKept s t ∧ OutsideKept s t)

/-! ### SET_IMAGE -/

/-- 43 R170, R171, R173: a visible blit of a supported format, all of whose visible pixels decode, writes each visible pixel's color
to its destination by one FbSet each, in row-major order, each after the pixel's reads, leaves every other cell as it was, and shows its clip in CLIP_*. The color is that of the image's
own pixel word there while the image is unchanged since the issue (70 R262). -/
def Obligations.SetImageDrawsTheVisiblePixels : Prop :=
  ∀ (s : State) (i : Instr) (h : Word) (dx0 dy0 : Int) (img : ImageRec), IsSetImage i h dx0 dy0 →
    s.inv = true → s.constructed = true → s.imgDesc h = some img → img.format.toNat ≤ 2 →
    (s.imageClip img dx0 dy0).degenerate = false →
    (∀ p ∈ (s.imageClip img dx0 dy0).pixels, s.decodeAt h img ((s.imageClip img dx0 dy0).source p) ≠ .outOfPalette) →
    let c := s.imageClip img dx0 dy0
    ∃ (t : State) (reads : Nat × Nat → List Event) (rgb : Nat × Nat → RGB), exec i s = .next t ∧
      Completed s t .ok 0 (c.w.toNat * c.h.toNat) ∧
      EventsAppended s t (blitEvents h c reads rgb c.pixels) ∧
      writtenCells (blitEvents h c reads rgb c.pixels) = c.pixels.map c.target ∧
      (∀ p ∈ c.pixels, s.decodeAt h img (c.source p) = .color (reads p) (rgb p) ∧
        t.fb (c.target p).1 (c.target p).2 = some (rgb p) ∧
        (s.imageStable h = true → ∃ w, pixAt img (c.source p).1 (c.source p).2 = some w ∧
          decodePixel s h img w (c.source p).1 (c.source p).2 = .color (reads p) (rgb p))) ∧
      CellsKeptBut s t (c.pixels.map c.target) ∧ ClipShown t c ∧ SurfaceKept s t ∧ OutsideKept s t

/-- 43 R182: a blit whose first pixel outside the palette is `p` ends there: the pixels before it are written, it and the ones after
it are not, its PixRead is the last event (so no PalRead is issued for it), FAULT_INFO is its source position, WCOUNT the number of
pixels written, and CLIP_* show the clip. -/
def Obligations.PaletteRangeStopsTheBlit : Prop :=
  ∀ (s : State) (i : Instr) (h : Word) (dx0 dy0 : Int) (img : ImageRec) (before after : List (Nat × Nat))
    (p : Nat × Nat), IsSetImage i h dx0 dy0 →
    s.inv = true → s.constructed = true → s.imgDesc h = some img → img.format = 2 →
    (s.imageClip img dx0 dy0).degenerate = false →
    (s.imageClip img dx0 dy0).pixels = before ++ p :: after →
    (∀ q ∈ before, s.decodeAt h img ((s.imageClip img dx0 dy0).source q) ≠ .outOfPalette) →
    s.decodeAt h img ((s.imageClip img dx0 dy0).source p) = .outOfPalette →
    let c := s.imageClip img dx0 dy0
    ∃ (t : State) (info : Word) (reads : Nat × Nat → List Event) (rgb : Nat × Nat → RGB), exec i s = .next t ∧
      info.toNat = (c.source p).2 * 65536 + (c.source p).1 ∧
      Completed s t .paletteRange info before.length ∧
      EventsAppended s t (blitEvents h c reads rgb before ++ [.pixRead h (c.source p).1 (c.source p).2]) ∧
      writtenCells (blitEvents h c reads rgb before) = before.map c.target ∧
      (∀ q ∈ before, s.decodeAt h img (c.source q) = .color (reads q) (rgb q) ∧
        t.fb (c.target q).1 (c.target q).2 = some (rgb q)) ∧
      CellsKeptBut s t (before.map c.target) ∧ ClipShown t c ∧ SurfaceKept s t ∧ OutsideKept s t

/-- 43 R163, R172: a degenerate blit is a no-op but for its `ImgDesc` event: CLIP_* are 0 and it completes with DIAG_EMPTY, or OK
while the latched DIAG_EN is 0. -/
def Obligations.DegenerateBlitWritesNothing : Prop :=
  ∀ (s : State) (i : Instr) (h : Word) (dx0 dy0 : Int) (img : ImageRec), IsSetImage i h dx0 dy0 →
    s.constructed = true → s.imgDesc h = some img →
    ((s.imageClip img dx0 dy0).w ≤ 0 ∨ (s.imageClip img dx0 dy0).h ≤ 0) →
    ∃ t, exec i s = .next t ∧
      Completed s t (if s.latch.ctrl.diagEn = true then .diagEmpty else .ok) 0 0 ∧
      EventsAppended s t [.imgDesc h] ∧ CellsKept s t ∧ ClipIs t 0 0 0 ∧ SurfaceKept s t ∧ OutsideKept s t

/-- 43 R177: a visible blit of format 3..15 reads and writes no pixel; CLIP_* show its clip and it completes with
DIAG_UNSUPPORTED_FORMAT, or OK while the latched DIAG_EN is 0. -/
def Obligations.UnsupportedFormatWritesNothing : Prop :=
  ∀ (s : State) (i : Instr) (h : Word) (dx0 dy0 : Int) (img : ImageRec), IsSetImage i h dx0 dy0 →
    s.constructed = true → s.imgDesc h = some img → 3 ≤ img.format.toNat →
    0 < (s.imageClip img dx0 dy0).w → 0 < (s.imageClip img dx0 dy0).h →
    ∃ t, exec i s = .next t ∧
      Completed s t (if s.latch.ctrl.diagEn = true then .diagUnsupportedFormat else .ok) 0 0 ∧
      EventsAppended s t [.imgDesc h] ∧ CellsKept s t ∧ ClipShown t (s.imageClip img dx0 dy0) ∧
      SurfaceKept s t ∧ OutsideKept s t

/-- 43 R170: a handle that names no image is reported with BAD_HANDLE before any other event; CLIP_* stay. -/
def Obligations.MissingImageIsBadHandle : Prop :=
  ∀ (s : State) (i : Instr) (h : Word) (dx0 dy0 : Int), IsSetImage i h dx0 dy0 →
    s.constructed = true → s.imgDesc h = none →
    ∃ t, exec i s = .next t ∧ Completed s t .badHandle h 0 ∧ EventsAppended s t [.imgDesc h] ∧
      CellsKept s t ∧ ClipKept s t ∧ SurfaceKept s t ∧ OutsideKept s t

/-- 70 R264, 43 R183: a blit depends on the image only through its descriptor, its visible pixels and, for Palette8, its palette:
two stores whose images agree there give the same outcome. -/
def Obligations.UnseenPixelsDoNotMatter : Prop :=
  ∀ (s t : State) (stores : Stores) (i : Instr) (h : Word) (dx0 dy0 : Int) (img img' : ImageRec),
    IsSetImage i h dx0 dy0 → s.earlier = [] → s.stores.image h = some img → stores.image h = some img' →
    img'.width = img.width → img'.height = img.height → img'.format = img.format →
    (img.format = 2 → img'.palLen = img.palLen ∧ img'.palette = img.palette) →
    (∀ p ∈ (s.imageClip img dx0 dy0).pixels,
      pixAt img' ((s.imageClip img dx0 dy0).source p).1 ((s.imageClip img dx0 dy0).source p).2 =
        pixAt img ((s.imageClip img dx0 dy0).source p).1 ((s.imageClip img dx0 dy0).source p).2) →
    exec i s = .next t → exec i { s with stores := stores } = .next { t with stores := stores }

/-- 20 R65, R66, 42 R151, 43 R181: every pixel, palette and buffer read of a command lies inside the record its descriptor read
answered. -/
def Obligations.PortReadsStayInRange : Prop :=
  ∀ (s t : State) (evs : List Event) (h : Word), s.engineTurn = .next t → EventsAppended s t evs →
    (∀ x y, .pixRead h x y ∈ evs →
      ∃ img, s.imgDesc h = some img ∧ x < img.width.toNat ∧ y < img.height.toNat) ∧
    (∀ k, .palRead h k ∈ evs → ∃ img, s.imgDesc h = some img ∧ k < img.palLen * 3) ∧
    (∀ k, .bufRead h k ∈ evs → ∃ buf, s.bufDesc h = some buf ∧ k < buf.length)

/-- 10 R34: CLIP_SRC, CLIP_DST and CLIP_SIZE are written only by SET_IMAGE and SET_IMAGE.OFF, and not by one that names no image. -/
def Obligations.OnlySetImageWritesClip : Prop :=
  ∀ (s t : State) (i : Instr), exec i s = .next t →
    (∀ h dx dy, IsSetImage i h dx dy → s.imgDesc h = none) → ClipKept s t

/-! ### Surface commands -/

/-- 44 R190: CLEAR leaves every cell black, by one FbClear. -/
def Obligations.ClearBlackensEveryCell : Prop :=
  ∀ s : State, s.inv = true → s.constructed = true →
    ∃ t, exec .clear s = .next t ∧ Completed s t .ok 0 0 ∧ EventsAppended s t [.fbClear] ∧
      (∀ x y, x < s.width → y < s.height → t.fb x y = some ⟨0, 0, 0⟩) ∧
      ClipKept s t ∧ SurfaceKept s t ∧ OutsideKept s t

/-- 44 R191, R192, R193: both fills leave every cell at their color, by one FbFill that WCOUNT does not count. -/
def Obligations.FillColorsEveryCell : Prop :=
  ∀ (s : State) (i : Instr) (c : RGB),
    ((∃ w, i = .fillP w ∧ c = packedRgb w) ∨ i = .fillRgb c.r c.g c.b) → s.inv = true → s.constructed = true →
    ∃ t, exec i s = .next t ∧ Completed s t .ok 0 0 ∧ EventsAppended s t [.fbFill c] ∧
      (∀ x y, x < s.width → y < s.height → t.fb x y = some c) ∧
      ClipKept s t ∧ SurfaceKept s t ∧ OutsideKept s t

/-- 44 R201: a second CLEAR, issued with any index and CTRL, leaves the same view as the first; the same for two fills with one
color. -/
def Obligations.SecondClearOrFillChangesNoCell : Prop :=
  ∀ (s t u : State) (i : Instr) (l : Latch),
    (i = .clear ∨ (∃ c, i = .fillP c) ∨ (∃ r g b, i = .fillRgb r g b)) →
    exec i s = .next t → exec i { t with latch := l } = .next u → u.view = t.view

/-- 30 R104: the four equivalences between forms; CLEAR and FILL 0, 0, 0 differ in their event. -/
def Obligations.FormsThatMeanTheSame : Prop :=
  (∀ (s : State) (h : Word), exec (.setImage h) s = exec (.setImageOff h 0 0) s) ∧
  (∀ s t u : State, exec .clear s = .next t → exec (.fillRgb 0 0 0) s = .next u → u.view = t.view ∧
    (s.constructed = true → EventsAppended s t [.fbClear] ∧ EventsAppended s u [.fbFill ⟨0, 0, 0⟩])) ∧
  (∀ (s : State) (c : Word),
    exec (.fillP c) s = exec (.fillRgb (packedRgb c).r (packedRgb c).g (packedRgb c).b) s) ∧
  (∀ (s : State) (x y : Int) (c : Word),
    exec (.setPixelP x y c) s = exec (.setPixelRgb x y (packedRgb c).r (packedRgb c).g (packedRgb c).b) s)

/-- 44 R194, R195: SET_PIXEL inside the surface sets that one cell and leaves every other as it was. -/
def Obligations.SetPixelSetsOneCell : Prop :=
  ∀ (s : State) (i : Instr) (x y : Nat) (c : RGB), IsSetPixel i x y c → s.inv = true → s.constructed = true →
    x < s.width → y < s.height →
    ∃ t, exec i s = .next t ∧ Completed s t .ok 0 1 ∧ EventsAppended s t [.fbSet x y c] ∧
      t.fb x y = some c ∧ CellsKeptBut s t [(x, y)] ∧ ClipKept s t ∧ SurfaceKept s t ∧ OutsideKept s t

/-- 44 R196: SET_PIXEL outside the surface issues no event: COORD_RANGE with the low halves of the coordinates while the
latched OOR_ERR is 1, else a dropped pixel, diagnosed while the latched DIAG_EN is 1. -/
def Obligations.OutOfRangePixelIsNotForwarded : Prop :=
  ∀ (s : State) (i : Instr) (x y : Int) (c : RGB), IsSetPixel i x y c → s.constructed = true →
    ¬(0 ≤ x ∧ x < s.width ∧ 0 ≤ y ∧ y < s.height) →
    ∃ t info, exec i s = .next t ∧
      (info.toNat : Int) = (if s.latch.ctrl.oorErr = true then y % 65536 * 65536 + x % 65536 else 0) ∧
      Completed s t
        (if s.latch.ctrl.oorErr = true then .coordRange
         else if s.latch.ctrl.diagEn = true then .diagPixelDropped else .ok) info 0 ∧
      EventsAppended s t [] ∧ CellsKept s t ∧ ClipKept s t ∧ SurfaceKept s t ∧ OutsideKept s t

/-- 44 R197: SET_PWM_BITS passes its depth on and changes no cell. -/
def Obligations.SetPwmBitsOnlyPassesTheDepth : Prop :=
  ∀ (s : State) (n : Byte), s.constructed = true →
    ∃ t, exec (.setPwmBits n) s = .next t ∧ Completed s t .ok 0 0 ∧ EventsAppended s t [.fbDepth n] ∧
      CellsKept s t ∧ ClipKept s t ∧ SurfaceKept s t ∧ OutsideKept s t

/-- 44 R198, R199: a CONSTRUCT that the surface accepts with a geometry that fits sets `constructed`, writes GEOM = {h, w}, and
every cell holds its draw FbInit, whatever that is (the draw's index is the model's own, log 3). -/
def Obligations.ConstructCreatesTheSurface : Prop :=
  ∀ (s : State) (rows chain w h : Nat), s.constructed = false → s.surfaceGeometry rows chain = some (w, h) →
    w < 65536 → h < 65536 →
    ∃ t, exec (.construct rows chain) s = .next t ∧ Completed s t .ok 0 0 ∧
      EventsAppended s t [.surfAlloc rows chain (some (w, h))] ∧ t.constructed = true ∧
      t.geom.toNat = h * 65536 + w ∧ t.width = w ∧ t.height = h ∧
      (∀ x y, x < w → y < h → t.fb x y = some (Config.fbInit s.latch.index x y)) ∧
      ClipKept s t ∧ OutsideKept s t

/-- 44 R198, R200: the three failures of a well-formed CONSTRUCT, in their order; each leaves `constructed`, GEOM and every cell as
they were. -/
def Obligations.FailedConstructChangesNoSurface : Prop :=
  ∀ (s : State) (rows chain : Nat), s.inv = true →
    (s.constructed = true ∨ ∀ w h, s.surfaceGeometry rows chain = some (w, h) → 65536 ≤ w ∨ 65536 ≤ h) →
    ∃ t evs, exec (.construct rows chain) s = .next t ∧
      Completed s t .constructFailed
        (if s.constructed = true then 1 else if s.surfaceGeometry rows chain = none then 2 else 3) 0 ∧
      EventsAppended s t evs ∧
      (s.constructed = true → evs = []) ∧
      (s.constructed = false → s.surfaceGeometry rows chain = none → evs = [.surfAlloc rows chain none]) ∧
      (∀ a, s.constructed = false → s.surfaceGeometry rows chain = some a →
        evs = [.surfAlloc rows chain (some a), .surfRelease]) ∧
      CellsKept s t ∧ ClipKept s t ∧ SurfaceKept s t ∧ OutsideKept s t

/-! ### The write arbiter -/

/-- 45 R215: every FbSet that a command in progress issues lies on the surface. -/
def Obligations.EveryFbSetIsOnTheSurface : Prop :=
  ∀ (s t : State) (evs : List Event) (x y : Nat) (c : RGB), s.engineTurn = .next t → EventsAppended s t evs →
    .fbSet x y c ∈ evs → x < s.width ∧ y < s.height

/-- 45 R210, R211, R217, 20 R62: port events come only from a form in the valid latch, which holds the grant, and each is of a
kind that form issues. -/
def Obligations.EventsComeFromTheGrantedForm : Prop :=
  ∀ (s t : State) (evs : List Event) (e : Event), s.engineTurn = .next t → EventsAppended s t evs → e ∈ evs →
    ∃ i, decode s.latch.cmd s.latch.args = .form i ∧ s.grant = some (requesterOf i) ∧ e.allowedFor i = true

/-- 45 R216: while nothing is constructed the only write-port requests are SurfAlloc and the SurfRelease of a CONSTRUCT that fails
with info 3; a reset releases nothing then. -/
def Obligations.WritePortIdleWhileNotConstructed : Prop :=
  ∀ s : State, s.constructed = false →
    (∀ (t : State) (evs : List Event) (e : Event), s.engineTurn = .next t → EventsAppended s t evs → e ∈ evs →
      e.isWriteRequest = true →
      (∃ rows chain a, e = .surfAlloc rows chain a) ∨
        (e = .surfRelease ∧ t.result = .constructFailed ∧ t.faultInfo = 3)) ∧
    (∀ t : State, applyInput (.reset 0) s = .next t → t.trace = s.trace)

/-- 45 R214: the view after a command is what its events, applied in order, make of the view before it; a command without write
requests leaves it as it was. -/
def Obligations.ViewFollowsTheTrace : Prop :=
  ∀ (s t : State) (evs : List Event), s.latch.valid = true → s.engineTurn = .next t → EventsAppended s t evs →
    t.view = evs.foldl (viewAfter s.latch.index) s.view ∧
      ((∀ e ∈ evs, e.isWriteRequest = false) → t.view = s.view)

/-- 20 R62, 43 R174: no command and no reset writes the image, palette or buffer space. -/
def Obligations.BlockNeverWritesTheStores : Prop :=
  ∀ (s t : State), (s.engineTurn = .next t ∨ (∃ n, applyInput (.reset n) s = .next t) ∨
    (∃ v, applyInput (.engineWithStatusWrite v) s = .next t)) → t.stores = s.stores

/-- 70 R262 (log 8): an image or a buffer changed while a command is in progress is no longer stable for that command; a change of
one handle leaves every other handle's record as stable as it was, and an image's change every buffer's and the reverse. -/
def Obligations.ChangeDuringACommandIsSeen : Prop :=
  ∀ (s : State) (h h' : Word) (r : Option ImageRec) (b : Option (List Byte)), s.latch.valid = true →
    (tabFind h.toNat s.stores.images ≠ some r → (s.setImage h r).imageStable h = false) ∧
    (h' ≠ h → (s.setImage h r).imageStable h' = s.imageStable h') ∧
    (s.setImage h r).bufferStable h' = s.bufferStable h' ∧
    (tabFind h.toNat s.stores.buffers ≠ some b → (s.setBuffer h b).bufferStable h = false) ∧
    (h' ≠ h → (s.setBuffer h b).bufferStable h' = s.bufferStable h') ∧
    (s.setBuffer h b).imageStable h' = s.imageStable h'

/-! ### Invariants and runs -/

/-- 10 R32, R33, R40, 45 R215: every step keeps the invariant of the block's states: a sound view exactly while a surface is
constructed, GEOM 0 while none is, FAULT_INFO 0 after a completion that is no error, canonical stores. -/
def Obligations.EveryStepKeepsTheInvariant : Prop :=
  ∀ s t : State, s.inv = true → step s = .next t → t.inv = true

/-- The invariant holds after power-on reset. -/
def Obligations.PowerOnStateMeetsTheInvariant : Prop := State.reset.inv = true ∧ State.reset.traceOrdered

/-- 20 R74, 45 R211: every step keeps the trace in command order: all events of one command precede all events of the next. -/
def Obligations.EveryStepKeepsCommandsInOrder : Prop :=
  ∀ s t : State, s.inv = true → s.traceOrdered → step s = .next t → t.traceOrdered

/-- 44 R199: once constructed, the surface and its geometry stay until a reset. -/
def Obligations.GeometryIsFixedUntilReset : Prop :=
  ∀ (s t : State) (e : Input), s.constructed = true → (∀ n, e ≠ .reset n) → applyInput e s = .next t →
    SurfaceKept s t

/-- 20 R69, 40 R125: a host that keeps to aligned 32-bit accesses inside the window never ends the run, whatever it writes and
whatever the stores hold (the pending actions and the refusal of foreign writes they leave out are the model's, log 6, 14). -/
def Obligations.LegalAccessesNeverFault : Prop :=
  ∀ (k : Nat) (s : State), (∀ e ∈ s.agenda, e.harmless = true) → SafeRun k s

/-- 40 R125, 30 R103: from any state with legal pending actions the run comes to rest: within three steps for each pending action
and one more, none is left and the block is idle (the engine's turns are the model's schedule, log 6, 7; a legal action is no
foreign write to the surface, log 14). -/
def Obligations.EveryRunComesToRest : Prop :=
  ∀ s : State, (∀ e ∈ s.agenda, e.harmless = true) →
    ∃ k t, k ≤ 3 * s.agenda.length + 1 ∧ Sys2Proof.core.run k s = .next t ∧ t.agenda = [] ∧ t.busy = false
end

