-- ==== Sys2Proof/Laws/Bits.lean ====
section
/-! SUPPORT. Bit fields and concatenations as arithmetic on numbers, so that later proofs are `omega`'s. -/

namespace Sys2Proof.Machine

theorem append_toNat {m n : Nat} (x : BitVec m) (y : BitVec n) : (x ++ y).toNat = x.toNat * 2 ^ n + y.toNat := by
  rw [BitVec.toNat_append, ← Nat.shiftLeft_add_eq_or_of_lt y.isLt, Nat.shiftLeft_eq]

theorem field_toNat (w : Word) (lo len : Nat) : (field w lo len).toNat = w.toNat / 2 ^ lo % 2 ^ len := by
  simp [field, BitVec.extractLsb'_toNat, Nat.shiftRight_eq_div_pow]

theorem field_eq_ofNat (w : Word) (lo len : Nat) : field w lo len = BitVec.ofNat len (w.toNat / 2 ^ lo) := by
  apply BitVec.eq_of_toNat_eq
  rw [field_toNat, BitVec.toNat_ofNat]

theorem getLsbD_nat (v : Word) (i : Nat) : v.getLsbD i = decide (v.toNat / 2 ^ i % 2 = 1) := by
  rw [BitVec.getLsbD, Nat.testBit_eq_decide_div_mod_eq]

theorem opcodeOf_nat (w : Word) : opcodeOf w = w.toNat % 256 := by
  simp [opcodeOf, field_toNat]

theorem nargsOf_nat (w : Word) : nargsOf w = w.toNat / 256 % 16 := by
  simp [nargsOf, field_toNat]

theorem reservedOf_nat (w : Word) : reservedOf w = w.toNat / 4096 := by
  have := w.isLt
  simp only [reservedOf, field_toNat]
  omega

theorem lowHalf_nat (w : Word) : lowHalf w = w.toNat % 65536 := by
  simp [lowHalf, field_toNat]

theorem highHalf_nat (w : Word) : highHalf w = w.toNat / 65536 := by
  have := w.isLt
  simp only [highHalf, field_toNat]
  omega

theorem ofInt_toNat (n : Nat) (x : Int) : ((BitVec.ofInt n x).toNat : Int) = x % (2 ^ n : Nat) := by
  have h : (0 : Int) < (2 ^ n : Nat) := by exact_mod_cast Nat.two_pow_pos n
  rw [BitVec.toNat_ofInt, Int.toNat_of_nonneg (Int.emod_nonneg x (ne_of_gt h))]

/-- The word of two halves, as a number. -/
theorem halves_toNat (hi lo : Int) : ((halves hi lo).toNat : Int) = hi % 65536 * 65536 + lo % 65536 := by
  have h₁ := ofInt_toNat 16 hi
  have h₂ := ofInt_toNat 16 lo
  simp only [halves, append_toNat, Nat.cast_add, Nat.cast_mul, Nat.cast_pow, Nat.cast_ofNat] at *
  omega

/-- Two halves that fit are read back. -/
theorem halves_fit (hi lo : Nat) (h₁ : hi < 65536) (h₂ : lo < 65536) : (halves hi lo).toNat = hi * 65536 + lo := by
  have := halves_toNat hi lo
  omega

theorem coord_roundtrip (x : Int) (h₁ : -2147483648 ≤ x) (h₂ : x < 2147483648) : coordOperand (coordWord x) = x := by
  simp only [coordOperand, coordWord, BitVec.toInt_ofInt]
  rw [Int.bmod_eq_of_le] <;> omega

theorem byte_roundtrip (b : Byte) : chanOperand (byteWord b) = b := by
  apply BitVec.eq_of_toNat_eq
  have := b.isLt
  simp only [chanOperand, byteWord, field_toNat, BitVec.toNat_setWidth]
  omega

theorem count_roundtrip (n : Nat) (h : n < 4294967296) : countOperand (countWord n) = n := by
  simp only [countOperand, countWord, BitVec.toNat_ofNat]
  omega

end Sys2Proof.Machine
end

