-- ==== Sys2Proof/Laws/Table.lean ====
section
/-! SUPPORT. Sparse tables: reading after writing, and the rising order of the keys. -/

namespace Sys2Proof.Machine

/-- Every key of the table lies above `k`. -/
def tabAbove {α : Type} (k : Nat) (t : List (Nat × α)) : Prop := ∀ e ∈ t, k < e.1

theorem tabRising_cons {α : Type} (k : Nat) (v : α) (t : List (Nat × α)) :
    tabRising ((k, v) :: t) = true ↔ tabAbove k t ∧ tabRising t = true := by
  induction t generalizing k v with
  | nil => simp [tabRising, tabAbove]
  | cons e t ih =>
    obtain ⟨k', v'⟩ := e
    simp only [tabRising, Bool.and_eq_true, decide_eq_true_eq, tabAbove, List.mem_cons, forall_eq_or_imp]
    constructor
    · rintro ⟨hk, ht⟩
      exact ⟨⟨hk, fun e he => hk.trans ((ih k' v').1 ht |>.1 e he)⟩, ht⟩
    · rintro ⟨⟨hk, _⟩, ht⟩
      exact ⟨hk, ht⟩

theorem tabFind_above {α : Type} (k k' : Nat) (t : List (Nat × α)) (h : tabAbove k' t) (hk : k ≤ k') :
    tabFind k t = none := by
  induction t with
  | nil => rfl
  | cons e t ih =>
    obtain ⟨k₁, v₁⟩ := e
    have h₁ : k' < k₁ := h (k₁, v₁) (by simp)
    have hne : k ≠ k₁ := by omega
    simp only [tabFind, hne, if_false]
    exact ih (fun e he => h e (by simp [he]))

theorem tabInsert_mem {α : Type} (k : Nat) (v : α) (t : List (Nat × α)) (e : Nat × α)
    (h : e ∈ tabInsert k v t) : e = (k, v) ∨ e ∈ t := by
  induction t with
  | nil => simpa [tabInsert] using h
  | cons d t ih =>
    obtain ⟨k', v'⟩ := d
    simp only [tabInsert] at h
    split_ifs at h
    · simpa using h
    · simp only [List.mem_cons] at h ⊢
      exact h.imp id Or.inr
    · simp only [List.mem_cons] at h ⊢
      rcases h with h | h
      · exact Or.inr (Or.inl h)
      · exact (ih h).imp id Or.inr

theorem tabErase_mem {α : Type} (k : Nat) (t : List (Nat × α)) (e : Nat × α) (h : e ∈ tabErase k t) : e ∈ t := by
  induction t with
  | nil => exact h
  | cons d t ih =>
    obtain ⟨k', v'⟩ := d
    simp only [tabErase] at h
    split_ifs at h
    · exact List.mem_cons_of_mem _ h
    · simp only [List.mem_cons] at h ⊢
      exact h.imp id ih

/-- Listing a value keeps the keys rising. -/
theorem tabInsert_rising {α : Type} (k : Nat) (v : α) (t : List (Nat × α)) (h : tabRising t = true) :
    tabRising (tabInsert k v t) = true := by
  induction t with
  | nil => rfl
  | cons d t ih =>
    obtain ⟨k', v'⟩ := d
    obtain ⟨ha, ht⟩ := (tabRising_cons k' v' t).1 h
    simp only [tabInsert]
    split_ifs with h₁ h₂
    · refine (tabRising_cons _ _ _).2 ⟨?_, h⟩
      intro e he
      simp only [List.mem_cons] at he
      rcases he with rfl | he
      · exact h₁
      · exact h₁.trans (ha e he)
    · subst h₂
      exact (tabRising_cons _ _ _).2 ⟨ha, ht⟩
    · refine (tabRising_cons _ _ _).2 ⟨?_, ih ht⟩
      intro e he
      rcases tabInsert_mem k v t e he with rfl | he
      · show k' < k
        omega
      · exact ha e he

/-- Listing nothing at a key keeps the keys rising. -/
theorem tabErase_rising {α : Type} (k : Nat) (t : List (Nat × α)) (h : tabRising t = true) :
    tabRising (tabErase k t) = true := by
  induction t with
  | nil => rfl
  | cons d t ih =>
    obtain ⟨k', v'⟩ := d
    obtain ⟨ha, ht⟩ := (tabRising_cons k' v' t).1 h
    simp only [tabErase]
    split_ifs
    · exact ht
    · exact (tabRising_cons _ _ _).2 ⟨fun e he => ha e (tabErase_mem k t e he), ih ht⟩

/-- What is read after listing a value: it at its key, everything else as before. -/
theorem tabFind_tabInsert {α : Type} (k j : Nat) (v : α) (t : List (Nat × α)) :
    tabFind j (tabInsert k v t) = if j = k then some v else tabFind j t := by
  induction t with
  | nil => simp [tabInsert, tabFind]
  | cons d t ih =>
    obtain ⟨k', v'⟩ := d
    simp only [tabInsert]
    split_ifs with h₁ h₂ h₃ h₃ h₃ <;> simp only [tabFind] at * <;> (try split_ifs) <;> first | rfl | omega | simp_all

/-- What is read after listing nothing at a key of a rising table: nothing there, everything else as before. -/
theorem tabFind_tabErase {α : Type} (k j : Nat) (t : List (Nat × α)) (h : tabRising t = true) :
    tabFind j (tabErase k t) = if j = k then none else tabFind j t := by
  induction t with
  | nil => simp [tabErase, tabFind]
  | cons d t ih =>
    obtain ⟨k', v'⟩ := d
    obtain ⟨ha, ht⟩ := (tabRising_cons k' v' t).1 h
    by_cases hk : k = k'
    · subst hk
      by_cases hj : j = k
      · subst hj
        simp [tabErase, tabFind_above j j t ha le_rfl]
      · simp [tabErase, tabFind, hj]
    · by_cases hj : j = k
      · subst hj
        simp [tabErase, tabFind, hk, ih ht]
      · simp [tabErase, tabFind, hk, hj, ih ht]

end Sys2Proof.Machine
end

