-- ==== Sys2Proof/Laws/View.lean ====
section
/-! SUPPORT. The framebuffer view: reading a cell after writing one, and that every operation on views keeps the
canonical form and the cells inside the surface. -/

namespace Sys2Proof.Machine

theorem cellKey_inj {x y x' y' : Nat} (hx : x < Config.dimBound) (hx' : x' < Config.dimBound)
    (h : cellKey x y = cellKey x' y') : x = x' ∧ y = y' := by
  simp only [cellKey, Config.dimBound] at *
  omega

@[simp] theorem cellKey_mod {x y : Nat} (hx : x < Config.dimBound) : cellKey x y % Config.dimBound = x := by
  simp only [cellKey, Config.dimBound] at *
  omega

@[simp] theorem cellKey_div {x y : Nat} (hx : x < Config.dimBound) : cellKey x y / Config.dimBound = y := by
  simp only [cellKey, Config.dimBound] at *
  omega

theorem wf_rising {v : View} (h : v.wf = true) : tabRising v.cells = true := by
  simp only [View.wf, Bool.and_eq_true] at h
  exact h.1

/-- Read after write: the written cell reads as written, every other cell as before. -/
theorem colorAt_set (v : View) (hv : v.wf = true) (x y i j : Nat) (c : RGB)
    (hx : x < Config.dimBound) (hi : i < Config.dimBound) :
    (v.set x y c).colorAt i j = if i = x ∧ j = y then c else v.colorAt i j := by
  have hr := wf_rising hv
  have hkey : cellKey i j = cellKey x y ↔ i = x ∧ j = y :=
    ⟨fun h => cellKey_inj hi hx h, fun h => by rw [h.1, h.2]⟩
  unfold View.set
  split_ifs with hb hp hp
  · simp [View.colorAt, tabFind_tabErase _ _ _ hr, hp, hb, Base.colorAt]
  · simp [View.colorAt, tabFind_tabErase _ _ _ hr, hkey, hp]
  · simp [View.colorAt, tabFind_tabInsert, hp]
  · simp [View.colorAt, tabFind_tabInsert, hkey, hp]

@[simp] theorem colorAt_filled (c : RGB) (x y : Nat) : (View.filled c).colorAt x y = c := rfl

@[simp] theorem colorAt_fresh (d x y : Nat) : (View.fresh d).colorAt x y = Config.fbInit d x y := rfl

@[simp] theorem wf_filled (c : RGB) : (View.filled c).wf = true := rfl

@[simp] theorem wf_fresh (d : Nat) : (View.fresh d).wf = true := rfl

@[simp] theorem inside_filled (c : RGB) (w h : Nat) : (View.filled c).inside w h = true := rfl

@[simp] theorem inside_fresh (d w h : Nat) : (View.fresh d).inside w h = true := rfl

theorem wf_iff (v : View) : v.wf = true ↔ tabRising v.cells = true ∧ ∀ e ∈ v.cells, v.base ≠ .uniform e.2 := by
  simp [View.wf]

theorem inside_iff (v : View) (w h : Nat) : v.inside w h = true ↔
    ∀ e ∈ v.cells, e.1 % Config.dimBound < w ∧ e.1 / Config.dimBound < h := by
  simp [View.inside]

/-- Writing a cell keeps the canonical form. -/
theorem wf_set (v : View) (hv : v.wf = true) (x y : Nat) (c : RGB) : (v.set x y c).wf = true := by
  obtain ⟨hr, hn⟩ := (wf_iff v).1 hv
  unfold View.set
  split_ifs with hb
  · exact (wf_iff _).2 ⟨tabErase_rising _ _ hr, fun e he => hn e (tabErase_mem _ _ e he)⟩
  · refine (wf_iff _).2 ⟨tabInsert_rising _ _ _ hr, fun e he => ?_⟩
    rcases tabInsert_mem _ _ _ e he with rfl | he
    · exact hb
    · exact hn e he

/-- Writing a cell of the surface keeps the listed cells inside it. -/
theorem inside_set (v : View) (w h x y : Nat) (c : RGB) (hv : v.inside w h = true) (hx : x < w) (hy : y < h)
    (hw : w ≤ Config.dimBound) : (v.set x y c).inside w h = true := by
  have hi := (inside_iff v w h).1 hv
  have hxd : x < Config.dimBound := lt_of_lt_of_le hx hw
  unfold View.set
  split_ifs
  · exact (inside_iff _ w h).2 fun e he => hi e (tabErase_mem _ _ e he)
  · refine (inside_iff _ w h).2 fun e he => ?_
    rcases tabInsert_mem _ _ _ e he with rfl | he
    · rw [cellKey_mod hxd, cellKey_div hxd]
      exact ⟨hx, hy⟩
    · exact hi e he

theorem width_lt (s : State) : s.width < Config.dimBound := (field s.geom 0 16).isLt

theorem height_lt (s : State) : s.height < Config.dimBound := (field s.geom 16 16).isLt

/-- The write requests of a list of events are inside a surface of `w` columns and `h` rows. -/
def FbSetsInside (w h : Nat) (evs : List Event) : Prop := ∀ x y c, Event.fbSet x y c ∈ evs → x < w ∧ y < h

/-- The view after some events is canonical and inside the surface if it was before and every write is inside. -/
theorem viewAfter_fold_sound (d w h : Nat) (hw : w ≤ Config.dimBound) (evs : List Event) (ov : Option View)
    (hov : ∀ v, ov = some v → v.wf = true ∧ v.inside w h = true) (hin : FbSetsInside w h evs) :
    ∀ v, evs.foldl (viewAfter d) ov = some v → v.wf = true ∧ v.inside w h = true := by
  induction evs generalizing ov with
  | nil => exact hov
  | cons e evs ih =>
    refine ih (viewAfter d ov e) ?_ fun x y c hm => hin x y c (List.mem_cons_of_mem _ hm)
    intro v hv
    cases e with
    | fbSet x y c =>
      obtain ⟨hx, hy⟩ := hin x y c (by simp)
      obtain ⟨u, hu, rfl⟩ := Option.map_eq_some_iff.1 hv
      obtain ⟨h₁, h₂⟩ := hov u hu
      exact ⟨wf_set u h₁ x y c, inside_set u w h x y c h₂ hx hy hw⟩
    | fbFill c =>
      obtain ⟨u, _, rfl⟩ := Option.map_eq_some_iff.1 hv
      exact ⟨rfl, rfl⟩
    | fbClear =>
      obtain ⟨u, _, rfl⟩ := Option.map_eq_some_iff.1 hv
      exact ⟨rfl, rfl⟩
    | surfAlloc rows chain a =>
      cases a with
      | none => exact hov v hv
      | some p =>
        obtain rfl : View.fresh d = v := Option.some.inj hv
        exact ⟨rfl, rfl⟩
    | surfRelease => cases hv
    | fbDepth n => exact hov v hv
    | imgDesc h' => exact hov v hv
    | pixRead h' x y => exact hov v hv
    | palRead h' i => exact hov v hv
    | bufLen h' => exact hov v hv
    | bufRead h' i => exact hov v hv

end Sys2Proof.Machine
end

