-- ==== Sys2Proof/Laws/Blit.lean ====
section
/-! SUPPORT. The loops: the row-major positions, what the blit loop issues, and what the view holds after a sequence of
cell writes. -/

namespace Sys2Proof.Machine

theorem mem_rowMajor (w h : Nat) (p : Nat × Nat) : p ∈ rowMajor w h ↔ p.1 < w ∧ p.2 < h := by
  obtain ⟨x, y⟩ := p
  simp only [rowMajor, List.mem_flatMap, List.mem_range, List.mem_map, Prod.mk.injEq]
  constructor
  · rintro ⟨j, hj, i, hi, rfl, rfl⟩
    exact ⟨hi, hj⟩
  · rintro ⟨hx, hy⟩
    exact ⟨y, hy, x, hx, rfl, rfl⟩

theorem length_rowMajor (w h : Nat) : (rowMajor w h).length = w * h := by
  simp [rowMajor, List.length_flatMap, Nat.mul_comm]

theorem nodup_rowMajor (w h : Nat) : (rowMajor w h).Nodup := by
  refine List.nodup_flatMap.2 ⟨fun y _ => ?_, ?_⟩
  · exact List.nodup_range.map fun a b hab => (Prod.mk.inj hab).1
  · refine List.nodup_range.imp fun {a b} hab => ?_
    intro p hp hq
    simp only [List.mem_map] at hp hq
    obtain ⟨_, _, rfl⟩ := hp
    obtain ⟨_, _, hq⟩ := hq
    exact hab (Prod.mk.inj hq).2.symm

/-- The positions come in row-major order (00 R15). -/
theorem sorted_rowMajor (w h : Nat) :
    (rowMajor w h).Pairwise (fun p q => p.2 < q.2 ∨ (p.2 = q.2 ∧ p.1 < q.1)) := by
  refine List.pairwise_flatMap.2 ⟨fun y _ => ?_, ?_⟩
  · exact List.pairwise_map.2 (List.pairwise_lt_range.imp fun h => Or.inr ⟨rfl, h⟩)
  · refine List.pairwise_lt_range.imp fun {a b} hab => ?_
    intro p hp q hq
    simp only [List.mem_map] at hp hq
    obtain ⟨_, _, rfl⟩ := hp
    obtain ⟨_, _, rfl⟩ := hq
    exact Or.inl hab

/-- The event leaves the whole view alone but for single-cell writes. -/
def Event.isCellOrRead : Event → Bool
  | .fbSet _ _ _ => true
  | .fbDepth _ => true
  | .imgDesc _ => true
  | .pixRead _ _ _ => true
  | .palRead _ _ => true
  | .bufLen _ => true
  | .bufRead _ _ => true
  | .fbFill _ => false
  | .fbClear => false
  | .surfAlloc _ _ _ => false
  | .surfRelease => false

/-- The color of the last write to a cell among some events. -/
def lastSet (i j : Nat) : List Event → Option RGB
  | [] => none
  | .fbSet x y c :: evs =>
    match lastSet i j evs with
    | some d => some d
    | none => if i = x ∧ j = y then some c else none
  | _ :: evs => lastSet i j evs

/-- A cell after some single-cell writes: the last color written to it, or what it held. -/
theorem viewAfter_fold_color (d w h : Nat) (hw : w ≤ Config.dimBound) (evs : List Event)
    (hc : ∀ e ∈ evs, e.isCellOrRead = true) (hin : FbSetsInside w h evs) (v : View) (hv : v.wf = true) :
    ∃ u, evs.foldl (viewAfter d) (some v) = some u ∧
      ∀ i j, i < w → u.colorAt i j = (lastSet i j evs).getD (v.colorAt i j) := by
  induction evs generalizing v with
  | nil => exact ⟨v, rfl, fun i j _ => rfl⟩
  | cons e evs ih =>
    have ih' := ih (fun e' he => hc e' (List.mem_cons_of_mem _ he))
      (fun x y c hm => hin x y c (List.mem_cons_of_mem _ hm))
    have he := hc e (by simp)
    cases e with
    | fbSet x y c =>
      obtain ⟨hx, _⟩ := hin x y c (by simp)
      obtain ⟨u, hu, hcol⟩ := ih' (v.set x y c) (wf_set v hv x y c)
      refine ⟨u, hu, fun i j hi => ?_⟩
      rw [hcol i j hi, colorAt_set v hv x y i j c (by omega) (by omega), lastSet]
      cases lastSet i j evs with
      | some d => rfl
      | none =>
        by_cases hp : i = x ∧ j = y <;> simp [hp]
    | fbDepth n => exact ih' v hv
    | imgDesc h' => exact ih' v hv
    | pixRead h' x y => exact ih' v hv
    | palRead h' i => exact ih' v hv
    | bufLen h' => exact ih' v hv
    | bufRead h' i => exact ih' v hv
    | fbFill c => cases he
    | fbClear => cases he
    | surfAlloc r c a => cases he
    | surfRelease => cases he

theorem lastSet_append (i j : Nat) (a b : List Event) :
    lastSet i j (a ++ b) = (lastSet i j b).or (lastSet i j a) := by
  induction a with
  | nil => simp [lastSet]
  | cons e a ih =>
    cases e <;> simp only [List.cons_append, lastSet, ih]
    cases lastSet i j b <;> simp

theorem lastSet_none (i j : Nat) (evs : List Event) (h : ∀ c, .fbSet i j c ∉ evs) : lastSet i j evs = none := by
  induction evs with
  | nil => rfl
  | cons e evs ih =>
    have ih' := ih fun c hm => h c (List.mem_cons_of_mem _ hm)
    cases e <;> simp only [lastSet, ih']
    rename_i x y c
    rw [if_neg]
    rintro ⟨rfl, rfl⟩
    exact h c (by simp)

/-- One write to a cell among events that write it no second time decides its last color. -/
theorem lastSet_some (i j : Nat) (c : RGB) (evs : List Event) (hm : .fbSet i j c ∈ evs)
    (hu : ∀ c', .fbSet i j c' ∈ evs → c' = c) : lastSet i j evs = some c := by
  induction evs with
  | nil => cases hm
  | cons e evs ih =>
    have hu' : ∀ c', .fbSet i j c' ∈ evs → c' = c := fun c' h => hu c' (List.mem_cons_of_mem _ h)
    by_cases hin : .fbSet i j c ∈ evs
    · have := ih hin hu'
      cases e <;> simp [lastSet, this]
    · rcases List.mem_cons.1 hm with rfl | hm'
      · rw [lastSet, lastSet_none i j evs]
        · simp
        · intro c' hc'
          exact hin (hu' c' hc' ▸ hc')
      · exact absurd hm' hin

/-- Every event of the blit loop: the read of a pixel, or a palette read or the write of a pixel that decodes. -/
theorem blitLoop_mem (s : State) (h : Word) (img : ImageRec) (c : Clip) (ps : List (Nat × Nat)) (e : Event)
    (he : e ∈ (s.blitLoop h img c ps).1) : ∃ p ∈ ps, e = .pixRead h (c.source p).1 (c.source p).2 ∨
      ∃ reads rgb, s.decodeAt h img (c.source p) = .color reads rgb ∧
        (e ∈ reads ∨ e = .fbSet (c.target p).1 (c.target p).2 rgb) := by
  induction ps with
  | nil => simp [State.blitLoop] at he
  | cons p ps ih =>
    simp only [State.blitLoop] at he
    cases hd : s.decodeAt h img (c.source p) with
    | outOfPalette =>
      rw [hd] at he
      exact ⟨p, by simp, Or.inl (by simpa using he)⟩
    | color reads rgb =>
      rw [hd] at he
      simp only [List.mem_append, List.mem_singleton] at he
      rcases he with ((he | he) | he) | he
      · exact ⟨p, by simp, Or.inl he⟩
      · exact ⟨p, by simp, Or.inr ⟨reads, rgb, hd, Or.inl he⟩⟩
      · exact ⟨p, by simp, Or.inr ⟨reads, rgb, hd, Or.inr he⟩⟩
      · obtain ⟨q, hq, hh⟩ := ih he
        exact ⟨q, by simp [hq], hh⟩

/-- Decoding reads only palette bytes. -/
theorem decodeAt_reads (s : State) (h : Word) (img : ImageRec) (q : Nat × Nat) (reads : List Event) (rgb : RGB)
    (hd : s.decodeAt h img q = .color reads rgb) : ∀ e ∈ reads, ∃ k, e = .palRead h k ∧ k < img.palLen * Config.palStride := by
  unfold State.decodeAt decodePixel decodePalette8 at hd
  simp only at hd
  split_ifs at hd with h₁ h₂ h₃
  · cases hd
    simp
  · cases hd
    simp
  · cases hd
    intro e he
    simp only [List.mem_cons, List.not_mem_nil, or_false] at he
    rcases he with rfl | rfl | rfl <;> refine ⟨_, rfl, ?_⟩ <;> simp only [Config.palStride] <;> omega

/-- The loop over pixels that all decode runs to its end. -/
theorem blitLoop_all (s : State) (h : Word) (img : ImageRec) (c : Clip) (ps : List (Nat × Nat))
    (hall : ∀ p ∈ ps, s.decodeAt h img (c.source p) ≠ .outOfPalette) : (s.blitLoop h img c ps).2 = none := by
  induction ps with
  | nil => rfl
  | cons p ps ih =>
    simp only [State.blitLoop]
    cases hd : s.decodeAt h img (c.source p) with
    | outOfPalette => exact absurd hd (hall p (by simp))
    | color reads rgb => exact ih fun q hq => hall q (by simp [hq])

/-- The events of the loop over pixels that all decode, given what each decodes to. -/
theorem blitLoop_events (s : State) (h : Word) (img : ImageRec) (c : Clip) (reads : Nat × Nat → List Event)
    (rgb : Nat × Nat → RGB) (ps : List (Nat × Nat))
    (hall : ∀ p ∈ ps, s.decodeAt h img (c.source p) = .color (reads p) (rgb p)) :
    .imgDesc h :: (s.blitLoop h img c ps).1 = blitEvents h c reads rgb ps := by
  induction ps with
  | nil => rfl
  | cons p ps ih =>
    have ih' := ih fun q hq => hall q (by simp [hq])
    simp only [blitEvents, List.cons.injEq, true_and] at ih'
    simp [blitEvents, State.blitLoop, hall p (by simp), ih']

/-- The loop over pixels of which the first that does not decode is `p`: it issues the events of those before `p`, reads
`p`, and ends there. -/
theorem blitLoop_stop (s : State) (h : Word) (img : ImageRec) (c : Clip) (before after : List (Nat × Nat))
    (p : Nat × Nat) (hall : ∀ q ∈ before, s.decodeAt h img (c.source q) ≠ .outOfPalette)
    (hp : s.decodeAt h img (c.source p) = .outOfPalette) :
    s.blitLoop h img c (before ++ p :: after) =
      ((s.blitLoop h img c before).1 ++ [.pixRead h (c.source p).1 (c.source p).2], some (c.source p)) := by
  induction before with
  | nil => simp [State.blitLoop, hp]
  | cons q before ih =>
    have ih' := ih fun r hr => hall r (by simp [hr])
    simp only [List.cons_append, State.blitLoop]
    cases hd : s.decodeAt h img (c.source q) with
    | outOfPalette => exact absurd hd (hall q (by simp))
    | color reads rgb => simp [ih']

/-- Every pixel of a loop that runs to its end is written with its decoded color. -/
theorem blitLoop_writes (s : State) (h : Word) (img : ImageRec) (c : Clip) (ps : List (Nat × Nat))
    (hall : ∀ p ∈ ps, s.decodeAt h img (c.source p) ≠ .outOfPalette) :
    ∀ p ∈ ps, ∃ reads rgb, s.decodeAt h img (c.source p) = .color reads rgb ∧
      .fbSet (c.target p).1 (c.target p).2 rgb ∈ (s.blitLoop h img c ps).1 := by
  induction ps with
  | nil => simp
  | cons q ps ih =>
    have ih' := ih fun r hr => hall r (by simp [hr])
    intro p hp
    simp only [State.blitLoop]
    cases hd : s.decodeAt h img (c.source q) with
    | outOfPalette => exact absurd hd (hall q (by simp))
    | color reads rgb =>
      rcases List.mem_cons.1 hp with rfl | hp
      · exact ⟨reads, rgb, hd, by simp⟩
      · obtain ⟨r, g, h₁, h₂⟩ := ih' p hp
        exact ⟨r, g, h₁, by simp [h₂]⟩

theorem fbSets_append (a b : List Event) : fbSets (a ++ b) = fbSets a + fbSets b := by
  simp [fbSets]

theorem fbSets_none (evs : List Event) (h : ∀ e ∈ evs, e.isFbSet = false) : fbSets evs = 0 := by
  simpa [fbSets, List.countP_eq_zero] using h

/-- The number of writes of the blit loop: at most one a pixel, and exactly one where all pixels decode. -/
theorem blitLoop_count (s : State) (h : Word) (img : ImageRec) (c : Clip) (ps : List (Nat × Nat)) :
    fbSets (s.blitLoop h img c ps).1 ≤ ps.length ∧
    ((∀ p ∈ ps, s.decodeAt h img (c.source p) ≠ .outOfPalette) → fbSets (s.blitLoop h img c ps).1 = ps.length) := by
  induction ps with
  | nil => simp [State.blitLoop, fbSets]
  | cons q ps ih =>
    simp only [State.blitLoop]
    cases hd : s.decodeAt h img (c.source q) with
    | outOfPalette =>
      refine ⟨by simp [fbSets, Event.isFbSet], fun hall => absurd hd (hall q (by simp))⟩
    | color reads rgb =>
      have hr : fbSets reads = 0 := fbSets_none reads fun e he => by
        obtain ⟨k, rfl, _⟩ := decodeAt_reads s h img _ _ _ hd e he
        rfl
      have h₁ : fbSets [Event.pixRead h (c.source q).1 (c.source q).2] = 0 := rfl
      have h₂ : fbSets [Event.fbSet (c.target q).1 (c.target q).2 rgb] = 1 := rfl
      simp only [fbSets_append, hr, h₁, h₂, List.length_cons]
      refine ⟨by omega, fun hall => ?_⟩
      rw [ih.2 fun p hp => hall p (by simp [hp])]
      omega

/-- Every event of the buffer transfer's loop. -/
theorem bufferPixel_mem (s : State) (h : Word) (buf : List Byte) (p : Nat × Nat) (e : Event)
    (he : e ∈ s.bufferPixel h buf p) :
    (∃ k < 3, e = .bufRead h (bufferOffset s.width p.1 p.2 + k)) ∨
      e = .fbSet p.1 p.2 (s.bufferColor h buf p.1 p.2) := by
  simp only [State.bufferPixel, List.mem_cons, List.not_mem_nil, or_false] at he
  rcases he with rfl | rfl | rfl | rfl
  · exact Or.inl ⟨0, by omega, rfl⟩
  · exact Or.inl ⟨1, by omega, rfl⟩
  · exact Or.inl ⟨2, by omega, rfl⟩
  · exact Or.inr rfl

theorem bufferLoop_count (s : State) (h : Word) (buf : List Byte) (ps : List (Nat × Nat)) :
    fbSets (ps.flatMap (s.bufferPixel h buf)) = ps.length := by
  induction ps with
  | nil => rfl
  | cons p ps ih =>
    have h₁ : fbSets (s.bufferPixel h buf p) = 1 := rfl
    simp only [List.flatMap_cons, fbSets_append, h₁, ih, List.length_cons]
    omega

theorem writtenCells_append (a b : List Event) : writtenCells (a ++ b) = writtenCells a ++ writtenCells b := by
  simp [writtenCells]

theorem writtenCells_none (evs : List Event) (h : ∀ e ∈ evs, e.isFbSet = false) : writtenCells evs = [] := by
  simp only [writtenCells, List.filterMap_eq_nil_iff]
  intro e he
  have := h e he
  cases e <;> first | rfl | cases this

/-- The blit loop writes the destinations of its pixels, in their order, where all of them decode. -/
theorem blitLoop_writtenCells (s : State) (h : Word) (img : ImageRec) (c : Clip) (ps : List (Nat × Nat))
    (hall : ∀ p ∈ ps, s.decodeAt h img (c.source p) ≠ .outOfPalette) :
    writtenCells (s.blitLoop h img c ps).1 = ps.map c.target := by
  induction ps with
  | nil => rfl
  | cons q ps ih =>
    simp only [State.blitLoop]
    cases hd : s.decodeAt h img (c.source q) with
    | outOfPalette => exact absurd hd (hall q (by simp))
    | color reads rgb =>
      have hr : writtenCells reads = [] := writtenCells_none reads fun e he => by
        obtain ⟨k, rfl, _⟩ := decodeAt_reads s h img _ _ _ hd e he
        rfl
      have h₁ : writtenCells [Event.pixRead h (c.source q).1 (c.source q).2] = [] := rfl
      have h₂ : writtenCells [Event.fbSet (c.target q).1 (c.target q).2 rgb] = [c.target q] := rfl
      rw [writtenCells_append, writtenCells_append, writtenCells_append, hr, h₁, h₂,
        ih fun p hp => hall p (by simp [hp])]
      rfl

/-- The buffer transfer's loop writes its cells in their order. -/
theorem bufferLoop_writtenCells (s : State) (h : Word) (buf : List Byte) (ps : List (Nat × Nat)) :
    writtenCells (ps.flatMap (s.bufferPixel h buf)) = ps := by
  induction ps with
  | nil => rfl
  | cons p ps ih =>
    have h₁ : writtenCells (s.bufferPixel h buf p) = [p] := rfl
    simp only [List.flatMap_cons, writtenCells_append, h₁, ih, List.cons_append, List.nil_append]

/-- The events of the buffer transfer that copies. -/
theorem bufferLoop_events (s : State) (h : Word) (buf : List Byte) :
    .bufLen h :: (rowMajor s.width s.height).flatMap (s.bufferPixel h buf) =
      copyEvents h s.width s.height (s.bufferColor h buf) := by
  have ho : ∀ x y, bufferOffset s.width x y = 3 * (y * s.width + x) := fun x y => Nat.mul_comm _ _
  simp [copyEvents, rowMajor, State.bufferPixel, List.flatMap_assoc, List.flatMap_map, ho]

/-- `pix` covers every position of the image (20 R64). -/
theorem pixAt_covers (img : ImageRec) (x y : Nat) (hx : x < img.width.toNat) (hy : y < img.height.toNat) :
    ∃ w, pixAt img x y = some w := by
  have hl : y * img.width.toNat + x < img.pixels.length := by
    rw [img.pixels_length]
    calc y * img.width.toNat + x < y * img.width.toNat + img.width.toNat := by omega
      _ = (y + 1) * img.width.toNat := by rw [Nat.add_mul, Nat.one_mul]
      _ ≤ img.height.toNat * img.width.toNat := Nat.mul_le_mul_right _ hy
      _ = img.width.toNat * img.height.toNat := Nat.mul_comm _ _
  exact ⟨_, List.getElem?_eq_getElem hl⟩

end Sys2Proof.Machine
end

