-- ==== Sys2Proof/Laws/Clip.lean ====
section
/-! SUPPORT. The clip of a visible blit lies inside the image and the surface, and fits the CLIP_* registers. -/

namespace Sys2Proof.Machine

/-- One axis: a positive visible length lies in the image from the source offset, on the surface from the destination. -/
theorem clipAxis_inside (m n d : Int) (_ : 0 < (clipAxis m n d).len) :
    0 ≤ (clipAxis m n d).src ∧ (clipAxis m n d).src + (clipAxis m n d).len ≤ n ∧ 0 ≤ (clipAxis m n d).dst ∧
      (clipAxis m n d).dst + (clipAxis m n d).len ≤ m := by
  unfold clipAxis at *
  dsimp only at *
  split_ifs at * <;> dsimp only at * <;> omega

/-- A clip that is not degenerate: its source span lies in the image, its destination span on the surface (43 R165). -/
theorem clip_inside (mw mh w0 h0 dx0 dy0 : Int) (hc : (clip mw mh w0 h0 dx0 dy0).degenerate = false) :
    let c := clip mw mh w0 h0 dx0 dy0
    0 ≤ c.sx ∧ c.sx + c.w ≤ w0 ∧ 0 ≤ c.dx ∧ c.dx + c.w ≤ mw ∧ 0 < c.w ∧
      0 ≤ c.sy ∧ c.sy + c.h ≤ h0 ∧ 0 ≤ c.dy ∧ c.dy + c.h ≤ mh ∧ 0 < c.h := by
  simp only [Clip.degenerate, Bool.or_eq_false_iff, decide_eq_false_iff_not, not_le] at hc
  obtain ⟨h₁, h₂, h₃, h₄⟩ := clipAxis_inside mw w0 dx0 hc.1
  obtain ⟨h₅, h₆, h₇, h₈⟩ := clipAxis_inside mh h0 dy0 hc.2
  exact ⟨h₁, h₂, h₃, h₄, hc.1, h₅, h₆, h₇, h₈, hc.2⟩

/-- The registers that hold a visible clip's words show its values. -/
theorem clipShown_of_words (s t : State) (img : ImageRec) (dx0 dy0 : Int)
    (hc : (s.imageClip img dx0 dy0).degenerate = false) (h₁ : t.clipSrc = (s.imageClip img dx0 dy0).srcWord)
    (h₂ : t.clipDst = (s.imageClip img dx0 dy0).dstWord) (h₃ : t.clipSize = (s.imageClip img dx0 dy0).sizeWord) :
    ClipShown t (s.imageClip img dx0 dy0) := by
  have hf := clip_inside _ _ _ _ _ _ hc
  have hw := img.width.isLt
  have hh := img.height.isLt
  have hsw := width_lt s
  have hsh := height_lt s
  simp only [Config.dimBound] at hsw hsh
  simp only [ClipShown, h₁, h₂, h₃, Clip.srcWord, Clip.dstWord, Clip.sizeWord, halves_toNat]
  simp only [State.imageClip] at hf ⊢
  omega

end Sys2Proof.Machine
end

