-- ==== Sys2Proof/Laws/State.lean ====
section
/-! SUPPORT. What every update of the state does to every field: one lemma per field per update, so that no later proof
unfolds a record update. -/

namespace Sys2Proof.Machine

/-! ### emit -/

@[simp] theorem emit_cmd (s : State) (evs : List Event) : (s.emit evs).cmd = s.cmd := rfl
@[simp] theorem emit_args (s : State) (evs : List Event) : (s.emit evs).args = s.args := rfl
@[simp] theorem emit_err (s : State) (evs : List Event) : (s.emit evs).err = s.err := rfl
@[simp] theorem emit_ovr (s : State) (evs : List Event) : (s.emit evs).ovr = s.ovr := rfl
@[simp] theorem emit_result (s : State) (evs : List Event) : (s.emit evs).result = s.result := rfl
@[simp] theorem emit_ctrl (s : State) (evs : List Event) : (s.emit evs).ctrl = s.ctrl := rfl
@[simp] theorem emit_geom (s : State) (evs : List Event) : (s.emit evs).geom = s.geom := rfl
@[simp] theorem emit_faultInfo (s : State) (evs : List Event) : (s.emit evs).faultInfo = s.faultInfo := rfl
@[simp] theorem emit_clipSrc (s : State) (evs : List Event) : (s.emit evs).clipSrc = s.clipSrc := rfl
@[simp] theorem emit_clipDst (s : State) (evs : List Event) : (s.emit evs).clipDst = s.clipDst := rfl
@[simp] theorem emit_clipSize (s : State) (evs : List Event) : (s.emit evs).clipSize = s.clipSize := rfl
@[simp] theorem emit_wcount (s : State) (evs : List Event) : (s.emit evs).wcount = s.wcount := rfl
@[simp] theorem emit_latch (s : State) (evs : List Event) : (s.emit evs).latch = s.latch := rfl
@[simp] theorem emit_constructed (s : State) (evs : List Event) : (s.emit evs).constructed = s.constructed := rfl
@[simp] theorem emit_view (s : State) (evs : List Event) :
    (s.emit evs).view = evs.foldl (viewAfter s.latch.index) s.view := rfl
@[simp] theorem emit_trace (s : State) (evs : List Event) :
    (s.emit evs).trace = s.trace ++ evs.map (fun e => { command := some s.latch.index, event := e }) := rfl
@[simp] theorem emit_issued (s : State) (evs : List Event) : (s.emit evs).issued = s.issued := rfl
@[simp] theorem emit_stores (s : State) (evs : List Event) : (s.emit evs).stores = s.stores := rfl
@[simp] theorem emit_earlier (s : State) (evs : List Event) : (s.emit evs).earlier = s.earlier := rfl
@[simp] theorem emit_geometry (s : State) (evs : List Event) : (s.emit evs).geometry = s.geometry := rfl
@[simp] theorem emit_agenda (s : State) (evs : List Event) : (s.emit evs).agenda = s.agenda := rfl
@[simp] theorem emit_readLog (s : State) (evs : List Event) : (s.emit evs).readLog = s.readLog := rfl

/-! ### complete -/

@[simp] theorem complete_cmd (s : State) (c : Result) (i : Word) (n : Nat) : (s.complete c i n).cmd = s.cmd := rfl
@[simp] theorem complete_args (s : State) (c : Result) (i : Word) (n : Nat) : (s.complete c i n).args = s.args := rfl
@[simp] theorem complete_err (s : State) (c : Result) (i : Word) (n : Nat) :
    (s.complete c i n).err = (s.err || c.isError) := rfl
@[simp] theorem complete_ovr (s : State) (c : Result) (i : Word) (n : Nat) : (s.complete c i n).ovr = s.ovr := rfl
@[simp] theorem complete_result (s : State) (c : Result) (i : Word) (n : Nat) : (s.complete c i n).result = c := rfl
@[simp] theorem complete_ctrl (s : State) (c : Result) (i : Word) (n : Nat) : (s.complete c i n).ctrl = s.ctrl := rfl
@[simp] theorem complete_geom (s : State) (c : Result) (i : Word) (n : Nat) : (s.complete c i n).geom = s.geom := rfl
@[simp] theorem complete_faultInfo (s : State) (c : Result) (i : Word) (n : Nat) :
    (s.complete c i n).faultInfo = i := rfl
@[simp] theorem complete_clipSrc (s : State) (c : Result) (i : Word) (n : Nat) :
    (s.complete c i n).clipSrc = s.clipSrc := rfl
@[simp] theorem complete_clipDst (s : State) (c : Result) (i : Word) (n : Nat) :
    (s.complete c i n).clipDst = s.clipDst := rfl
@[simp] theorem complete_clipSize (s : State) (c : Result) (i : Word) (n : Nat) :
    (s.complete c i n).clipSize = s.clipSize := rfl
@[simp] theorem complete_wcount (s : State) (c : Result) (i : Word) (n : Nat) :
    (s.complete c i n).wcount = BitVec.ofNat 32 n := rfl
@[simp] theorem complete_latch (s : State) (c : Result) (i : Word) (n : Nat) :
    (s.complete c i n).latch = { s.latch with valid := false } := rfl
@[simp] theorem complete_constructed (s : State) (c : Result) (i : Word) (n : Nat) :
    (s.complete c i n).constructed = s.constructed := rfl
@[simp] theorem complete_view (s : State) (c : Result) (i : Word) (n : Nat) : (s.complete c i n).view = s.view := rfl
@[simp] theorem complete_trace (s : State) (c : Result) (i : Word) (n : Nat) :
    (s.complete c i n).trace = s.trace := rfl
@[simp] theorem complete_issued (s : State) (c : Result) (i : Word) (n : Nat) :
    (s.complete c i n).issued = s.issued := rfl
@[simp] theorem complete_stores (s : State) (c : Result) (i : Word) (n : Nat) :
    (s.complete c i n).stores = s.stores := rfl
@[simp] theorem complete_earlier (s : State) (c : Result) (i : Word) (n : Nat) :
    (s.complete c i n).earlier = s.earlier := rfl
@[simp] theorem complete_geometry (s : State) (c : Result) (i : Word) (n : Nat) :
    (s.complete c i n).geometry = s.geometry := rfl
@[simp] theorem complete_agenda (s : State) (c : Result) (i : Word) (n : Nat) :
    (s.complete c i n).agenda = s.agenda := rfl
@[simp] theorem complete_readLog (s : State) (c : Result) (i : Word) (n : Nat) :
    (s.complete c i n).readLog = s.readLog := rfl

/-! ### writeClip -/

@[simp] theorem writeClip_cmd (s : State) (c : Option (Word × Word × Word)) :
    (s.writeClip c).cmd = s.cmd := by cases c <;> rfl
@[simp] theorem writeClip_args (s : State) (c : Option (Word × Word × Word)) :
    (s.writeClip c).args = s.args := by cases c <;> rfl
@[simp] theorem writeClip_err (s : State) (c : Option (Word × Word × Word)) :
    (s.writeClip c).err = s.err := by cases c <;> rfl
@[simp] theorem writeClip_ovr (s : State) (c : Option (Word × Word × Word)) :
    (s.writeClip c).ovr = s.ovr := by cases c <;> rfl
@[simp] theorem writeClip_result (s : State) (c : Option (Word × Word × Word)) :
    (s.writeClip c).result = s.result := by cases c <;> rfl
@[simp] theorem writeClip_ctrl (s : State) (c : Option (Word × Word × Word)) :
    (s.writeClip c).ctrl = s.ctrl := by cases c <;> rfl
@[simp] theorem writeClip_geom (s : State) (c : Option (Word × Word × Word)) :
    (s.writeClip c).geom = s.geom := by cases c <;> rfl
@[simp] theorem writeClip_faultInfo (s : State) (c : Option (Word × Word × Word)) :
    (s.writeClip c).faultInfo = s.faultInfo := by cases c <;> rfl
@[simp] theorem writeClip_clipSrc (s : State) (c : Option (Word × Word × Word)) :
    (s.writeClip c).clipSrc = (c.map (fun v => v.1)).getD s.clipSrc := by cases c <;> rfl
@[simp] theorem writeClip_clipDst (s : State) (c : Option (Word × Word × Word)) :
    (s.writeClip c).clipDst = (c.map (fun v => v.2.1)).getD s.clipDst := by cases c <;> rfl
@[simp] theorem writeClip_clipSize (s : State) (c : Option (Word × Word × Word)) :
    (s.writeClip c).clipSize = (c.map (fun v => v.2.2)).getD s.clipSize := by cases c <;> rfl
@[simp] theorem writeClip_wcount (s : State) (c : Option (Word × Word × Word)) :
    (s.writeClip c).wcount = s.wcount := by cases c <;> rfl
@[simp] theorem writeClip_latch (s : State) (c : Option (Word × Word × Word)) :
    (s.writeClip c).latch = s.latch := by cases c <;> rfl
@[simp] theorem writeClip_constructed (s : State) (c : Option (Word × Word × Word)) :
    (s.writeClip c).constructed = s.constructed := by cases c <;> rfl
@[simp] theorem writeClip_view (s : State) (c : Option (Word × Word × Word)) :
    (s.writeClip c).view = s.view := by cases c <;> rfl
@[simp] theorem writeClip_trace (s : State) (c : Option (Word × Word × Word)) :
    (s.writeClip c).trace = s.trace := by cases c <;> rfl
@[simp] theorem writeClip_issued (s : State) (c : Option (Word × Word × Word)) :
    (s.writeClip c).issued = s.issued := by cases c <;> rfl
@[simp] theorem writeClip_stores (s : State) (c : Option (Word × Word × Word)) :
    (s.writeClip c).stores = s.stores := by cases c <;> rfl
@[simp] theorem writeClip_earlier (s : State) (c : Option (Word × Word × Word)) :
    (s.writeClip c).earlier = s.earlier := by cases c <;> rfl
@[simp] theorem writeClip_geometry (s : State) (c : Option (Word × Word × Word)) :
    (s.writeClip c).geometry = s.geometry := by cases c <;> rfl
@[simp] theorem writeClip_agenda (s : State) (c : Option (Word × Word × Word)) :
    (s.writeClip c).agenda = s.agenda := by cases c <;> rfl
@[simp] theorem writeClip_readLog (s : State) (c : Option (Word × Word × Word)) :
    (s.writeClip c).readLog = s.readLog := by cases c <;> rfl

/-! ### writeGeom -/

@[simp] theorem writeGeom_cmd (s : State) (g : Option Word) :
    (s.writeGeom g).cmd = s.cmd := by cases g <;> simp [State.writeGeom]
@[simp] theorem writeGeom_args (s : State) (g : Option Word) :
    (s.writeGeom g).args = s.args := by cases g <;> simp [State.writeGeom]
@[simp] theorem writeGeom_err (s : State) (g : Option Word) :
    (s.writeGeom g).err = s.err := by cases g <;> simp [State.writeGeom]
@[simp] theorem writeGeom_ovr (s : State) (g : Option Word) :
    (s.writeGeom g).ovr = s.ovr := by cases g <;> simp [State.writeGeom]
@[simp] theorem writeGeom_result (s : State) (g : Option Word) :
    (s.writeGeom g).result = s.result := by cases g <;> simp [State.writeGeom]
@[simp] theorem writeGeom_ctrl (s : State) (g : Option Word) :
    (s.writeGeom g).ctrl = s.ctrl := by cases g <;> simp [State.writeGeom]
@[simp] theorem writeGeom_geom (s : State) (g : Option Word) :
    (s.writeGeom g).geom = g.getD s.geom := by cases g <;> simp [State.writeGeom]
@[simp] theorem writeGeom_faultInfo (s : State) (g : Option Word) :
    (s.writeGeom g).faultInfo = s.faultInfo := by cases g <;> simp [State.writeGeom]
@[simp] theorem writeGeom_clipSrc (s : State) (g : Option Word) :
    (s.writeGeom g).clipSrc = s.clipSrc := by cases g <;> simp [State.writeGeom]
@[simp] theorem writeGeom_clipDst (s : State) (g : Option Word) :
    (s.writeGeom g).clipDst = s.clipDst := by cases g <;> simp [State.writeGeom]
@[simp] theorem writeGeom_clipSize (s : State) (g : Option Word) :
    (s.writeGeom g).clipSize = s.clipSize := by cases g <;> simp [State.writeGeom]
@[simp] theorem writeGeom_wcount (s : State) (g : Option Word) :
    (s.writeGeom g).wcount = s.wcount := by cases g <;> simp [State.writeGeom]
@[simp] theorem writeGeom_latch (s : State) (g : Option Word) :
    (s.writeGeom g).latch = s.latch := by cases g <;> simp [State.writeGeom]
@[simp] theorem writeGeom_constructed (s : State) (g : Option Word) :
    (s.writeGeom g).constructed = (s.constructed || g.isSome) := by cases g <;> simp [State.writeGeom]
@[simp] theorem writeGeom_view (s : State) (g : Option Word) :
    (s.writeGeom g).view = s.view := by cases g <;> simp [State.writeGeom]
@[simp] theorem writeGeom_trace (s : State) (g : Option Word) :
    (s.writeGeom g).trace = s.trace := by cases g <;> simp [State.writeGeom]
@[simp] theorem writeGeom_issued (s : State) (g : Option Word) :
    (s.writeGeom g).issued = s.issued := by cases g <;> simp [State.writeGeom]
@[simp] theorem writeGeom_stores (s : State) (g : Option Word) :
    (s.writeGeom g).stores = s.stores := by cases g <;> simp [State.writeGeom]
@[simp] theorem writeGeom_earlier (s : State) (g : Option Word) :
    (s.writeGeom g).earlier = s.earlier := by cases g <;> simp [State.writeGeom]
@[simp] theorem writeGeom_geometry (s : State) (g : Option Word) :
    (s.writeGeom g).geometry = s.geometry := by cases g <;> simp [State.writeGeom]
@[simp] theorem writeGeom_agenda (s : State) (g : Option Word) :
    (s.writeGeom g).agenda = s.agenda := by cases g <;> simp [State.writeGeom]
@[simp] theorem writeGeom_readLog (s : State) (g : Option Word) :
    (s.writeGeom g).readLog = s.readLog := by cases g <;> simp [State.writeGeom]

/-! ### issue -/

@[simp] theorem issue_cmd (s : State) (w : Word) : (s.issue w).cmd = w := rfl
@[simp] theorem issue_args (s : State) (w : Word) : (s.issue w).args = s.args := rfl
@[simp] theorem issue_err (s : State) (w : Word) : (s.issue w).err = s.err := rfl
@[simp] theorem issue_ovr (s : State) (w : Word) : (s.issue w).ovr = s.ovr := rfl
@[simp] theorem issue_result (s : State) (w : Word) : (s.issue w).result = s.result := rfl
@[simp] theorem issue_ctrl (s : State) (w : Word) : (s.issue w).ctrl = s.ctrl := rfl
@[simp] theorem issue_geom (s : State) (w : Word) : (s.issue w).geom = s.geom := rfl
@[simp] theorem issue_faultInfo (s : State) (w : Word) : (s.issue w).faultInfo = s.faultInfo := rfl
@[simp] theorem issue_clipSrc (s : State) (w : Word) : (s.issue w).clipSrc = s.clipSrc := rfl
@[simp] theorem issue_clipDst (s : State) (w : Word) : (s.issue w).clipDst = s.clipDst := rfl
@[simp] theorem issue_clipSize (s : State) (w : Word) : (s.issue w).clipSize = s.clipSize := rfl
@[simp] theorem issue_wcount (s : State) (w : Word) : (s.issue w).wcount = s.wcount := rfl
@[simp] theorem issue_latch (s : State) (w : Word) :
    (s.issue w).latch = { valid := true, cmd := w, args := s.args, ctrl := s.ctrl, index := s.issued } := rfl
@[simp] theorem issue_constructed (s : State) (w : Word) : (s.issue w).constructed = s.constructed := rfl
@[simp] theorem issue_view (s : State) (w : Word) : (s.issue w).view = s.view := rfl
@[simp] theorem issue_trace (s : State) (w : Word) : (s.issue w).trace = s.trace := rfl
@[simp] theorem issue_issued (s : State) (w : Word) : (s.issue w).issued = s.issued + 1 := rfl
@[simp] theorem issue_stores (s : State) (w : Word) : (s.issue w).stores = s.stores := rfl
@[simp] theorem issue_earlier (s : State) (w : Word) : (s.issue w).earlier = [] := rfl
@[simp] theorem issue_geometry (s : State) (w : Word) : (s.issue w).geometry = s.geometry := rfl
@[simp] theorem issue_agenda (s : State) (w : Word) : (s.issue w).agenda = s.agenda := rfl
@[simp] theorem issue_readLog (s : State) (w : Word) : (s.issue w).readLog = s.readLog := rfl

/-! ### writeStatus -/

@[simp] theorem writeStatus_cmd (s : State) (v : Word) : (s.writeStatus v).cmd = s.cmd := rfl
@[simp] theorem writeStatus_args (s : State) (v : Word) : (s.writeStatus v).args = s.args := rfl
@[simp] theorem writeStatus_err (s : State) (v : Word) : (s.writeStatus v).err = (s.err && !v.getLsbD 1) := rfl
@[simp] theorem writeStatus_ovr (s : State) (v : Word) : (s.writeStatus v).ovr = (s.ovr && !v.getLsbD 2) := rfl
@[simp] theorem writeStatus_result (s : State) (v : Word) : (s.writeStatus v).result = s.result := rfl
@[simp] theorem writeStatus_ctrl (s : State) (v : Word) : (s.writeStatus v).ctrl = s.ctrl := rfl
@[simp] theorem writeStatus_geom (s : State) (v : Word) : (s.writeStatus v).geom = s.geom := rfl
@[simp] theorem writeStatus_faultInfo (s : State) (v : Word) : (s.writeStatus v).faultInfo = s.faultInfo := rfl
@[simp] theorem writeStatus_clipSrc (s : State) (v : Word) : (s.writeStatus v).clipSrc = s.clipSrc := rfl
@[simp] theorem writeStatus_clipDst (s : State) (v : Word) : (s.writeStatus v).clipDst = s.clipDst := rfl
@[simp] theorem writeStatus_clipSize (s : State) (v : Word) : (s.writeStatus v).clipSize = s.clipSize := rfl
@[simp] theorem writeStatus_wcount (s : State) (v : Word) : (s.writeStatus v).wcount = s.wcount := rfl
@[simp] theorem writeStatus_latch (s : State) (v : Word) : (s.writeStatus v).latch = s.latch := rfl
@[simp] theorem writeStatus_constructed (s : State) (v : Word) : (s.writeStatus v).constructed = s.constructed := rfl
@[simp] theorem writeStatus_view (s : State) (v : Word) : (s.writeStatus v).view = s.view := rfl
@[simp] theorem writeStatus_trace (s : State) (v : Word) : (s.writeStatus v).trace = s.trace := rfl
@[simp] theorem writeStatus_issued (s : State) (v : Word) : (s.writeStatus v).issued = s.issued := rfl
@[simp] theorem writeStatus_stores (s : State) (v : Word) : (s.writeStatus v).stores = s.stores := rfl
@[simp] theorem writeStatus_earlier (s : State) (v : Word) : (s.writeStatus v).earlier = s.earlier := rfl
@[simp] theorem writeStatus_geometry (s : State) (v : Word) : (s.writeStatus v).geometry = s.geometry := rfl
@[simp] theorem writeStatus_agenda (s : State) (v : Word) : (s.writeStatus v).agenda = s.agenda := rfl
@[simp] theorem writeStatus_readLog (s : State) (v : Word) : (s.writeStatus v).readLog = s.readLog := rfl

/-! ### hostRead -/

@[simp] theorem hostRead_cmd (s : State) (off : Nat) : (s.hostRead off).cmd = s.cmd := rfl
@[simp] theorem hostRead_args (s : State) (off : Nat) : (s.hostRead off).args = s.args := rfl
@[simp] theorem hostRead_err (s : State) (off : Nat) : (s.hostRead off).err = s.err := rfl
@[simp] theorem hostRead_ovr (s : State) (off : Nat) : (s.hostRead off).ovr = s.ovr := rfl
@[simp] theorem hostRead_result (s : State) (off : Nat) : (s.hostRead off).result = s.result := rfl
@[simp] theorem hostRead_ctrl (s : State) (off : Nat) : (s.hostRead off).ctrl = s.ctrl := rfl
@[simp] theorem hostRead_geom (s : State) (off : Nat) : (s.hostRead off).geom = s.geom := rfl
@[simp] theorem hostRead_faultInfo (s : State) (off : Nat) : (s.hostRead off).faultInfo = s.faultInfo := rfl
@[simp] theorem hostRead_clipSrc (s : State) (off : Nat) : (s.hostRead off).clipSrc = s.clipSrc := rfl
@[simp] theorem hostRead_clipDst (s : State) (off : Nat) : (s.hostRead off).clipDst = s.clipDst := rfl
@[simp] theorem hostRead_clipSize (s : State) (off : Nat) : (s.hostRead off).clipSize = s.clipSize := rfl
@[simp] theorem hostRead_wcount (s : State) (off : Nat) : (s.hostRead off).wcount = s.wcount := rfl
@[simp] theorem hostRead_latch (s : State) (off : Nat) : (s.hostRead off).latch = s.latch := rfl
@[simp] theorem hostRead_constructed (s : State) (off : Nat) : (s.hostRead off).constructed = s.constructed := rfl
@[simp] theorem hostRead_view (s : State) (off : Nat) : (s.hostRead off).view = s.view := rfl
@[simp] theorem hostRead_trace (s : State) (off : Nat) : (s.hostRead off).trace = s.trace := rfl
@[simp] theorem hostRead_issued (s : State) (off : Nat) : (s.hostRead off).issued = s.issued := rfl
@[simp] theorem hostRead_stores (s : State) (off : Nat) : (s.hostRead off).stores = s.stores := rfl
@[simp] theorem hostRead_earlier (s : State) (off : Nat) : (s.hostRead off).earlier = s.earlier := rfl
@[simp] theorem hostRead_geometry (s : State) (off : Nat) : (s.hostRead off).geometry = s.geometry := rfl
@[simp] theorem hostRead_agenda (s : State) (off : Nat) : (s.hostRead off).agenda = s.agenda := rfl
@[simp] theorem hostRead_readLog (s : State) (off : Nat) :
    (s.hostRead off).readLog = s.readLog ++ [(off, s.readReg off)] := rfl

/-! ### changeStores -/

@[simp] theorem changeStores_cmd (s : State) (t : Stores) : (s.changeStores t).cmd = s.cmd := rfl
@[simp] theorem changeStores_args (s : State) (t : Stores) : (s.changeStores t).args = s.args := rfl
@[simp] theorem changeStores_err (s : State) (t : Stores) : (s.changeStores t).err = s.err := rfl
@[simp] theorem changeStores_ovr (s : State) (t : Stores) : (s.changeStores t).ovr = s.ovr := rfl
@[simp] theorem changeStores_result (s : State) (t : Stores) : (s.changeStores t).result = s.result := rfl
@[simp] theorem changeStores_ctrl (s : State) (t : Stores) : (s.changeStores t).ctrl = s.ctrl := rfl
@[simp] theorem changeStores_geom (s : State) (t : Stores) : (s.changeStores t).geom = s.geom := rfl
@[simp] theorem changeStores_faultInfo (s : State) (t : Stores) : (s.changeStores t).faultInfo = s.faultInfo := rfl
@[simp] theorem changeStores_clipSrc (s : State) (t : Stores) : (s.changeStores t).clipSrc = s.clipSrc := rfl
@[simp] theorem changeStores_clipDst (s : State) (t : Stores) : (s.changeStores t).clipDst = s.clipDst := rfl
@[simp] theorem changeStores_clipSize (s : State) (t : Stores) : (s.changeStores t).clipSize = s.clipSize := rfl
@[simp] theorem changeStores_wcount (s : State) (t : Stores) : (s.changeStores t).wcount = s.wcount := rfl
@[simp] theorem changeStores_latch (s : State) (t : Stores) : (s.changeStores t).latch = s.latch := rfl
@[simp] theorem changeStores_constructed (s : State) (t : Stores) :
    (s.changeStores t).constructed = s.constructed := rfl
@[simp] theorem changeStores_view (s : State) (t : Stores) : (s.changeStores t).view = s.view := rfl
@[simp] theorem changeStores_trace (s : State) (t : Stores) : (s.changeStores t).trace = s.trace := rfl
@[simp] theorem changeStores_issued (s : State) (t : Stores) : (s.changeStores t).issued = s.issued := rfl
@[simp] theorem changeStores_stores (s : State) (t : Stores) : (s.changeStores t).stores = t := rfl
@[simp] theorem changeStores_earlier (s : State) (t : Stores) :
    (s.changeStores t).earlier = if s.latch.valid then s.stores :: s.earlier else s.earlier := rfl
@[simp] theorem changeStores_geometry (s : State) (t : Stores) : (s.changeStores t).geometry = s.geometry := rfl
@[simp] theorem changeStores_agenda (s : State) (t : Stores) : (s.changeStores t).agenda = s.agenda := rfl
@[simp] theorem changeStores_readLog (s : State) (t : Stores) : (s.changeStores t).readLog = s.readLog := rfl

/-! ### resetBlock -/

@[simp] theorem resetBlock_cmd (s : State) (n : Nat) : (s.resetBlock n).cmd = 0 := rfl
@[simp] theorem resetBlock_args (s : State) (n : Nat) : (s.resetBlock n).args = Args.zero := rfl
@[simp] theorem resetBlock_err (s : State) (n : Nat) : (s.resetBlock n).err = false := rfl
@[simp] theorem resetBlock_ovr (s : State) (n : Nat) : (s.resetBlock n).ovr = false := rfl
@[simp] theorem resetBlock_result (s : State) (n : Nat) : (s.resetBlock n).result = .ok := rfl
@[simp] theorem resetBlock_ctrl (s : State) (n : Nat) : (s.resetBlock n).ctrl = ⟨false, false⟩ := rfl
@[simp] theorem resetBlock_geom (s : State) (n : Nat) : (s.resetBlock n).geom = 0 := rfl
@[simp] theorem resetBlock_faultInfo (s : State) (n : Nat) : (s.resetBlock n).faultInfo = 0 := rfl
@[simp] theorem resetBlock_clipSrc (s : State) (n : Nat) : (s.resetBlock n).clipSrc = 0 := rfl
@[simp] theorem resetBlock_clipDst (s : State) (n : Nat) : (s.resetBlock n).clipDst = 0 := rfl
@[simp] theorem resetBlock_clipSize (s : State) (n : Nat) : (s.resetBlock n).clipSize = 0 := rfl
@[simp] theorem resetBlock_wcount (s : State) (n : Nat) : (s.resetBlock n).wcount = 0 := rfl
@[simp] theorem resetBlock_latch (s : State) (n : Nat) :
    (s.resetBlock n).latch = { s.latch with valid := false } := rfl
@[simp] theorem resetBlock_constructed (s : State) (n : Nat) : (s.resetBlock n).constructed = false := rfl
@[simp] theorem resetBlock_view (s : State) (n : Nat) : (s.resetBlock n).view = none := rfl
@[simp] theorem resetBlock_trace (s : State) (n : Nat) :
    (s.resetBlock n).trace = s.trace ++ s.pendingEvents.take n ++ (if s.constructed then [{ command := none, event := .surfRelease }] else []) := rfl
@[simp] theorem resetBlock_issued (s : State) (n : Nat) : (s.resetBlock n).issued = s.issued := rfl
@[simp] theorem resetBlock_stores (s : State) (n : Nat) : (s.resetBlock n).stores = s.stores := rfl
@[simp] theorem resetBlock_earlier (s : State) (n : Nat) : (s.resetBlock n).earlier = s.earlier := rfl
@[simp] theorem resetBlock_geometry (s : State) (n : Nat) : (s.resetBlock n).geometry = s.geometry := rfl
@[simp] theorem resetBlock_agenda (s : State) (n : Nat) : (s.resetBlock n).agenda = s.agenda := rfl
@[simp] theorem resetBlock_readLog (s : State) (n : Nat) : (s.resetBlock n).readLog = s.readLog := rfl

/-! ### carryOut -/

@[simp] theorem carryOut_cmd (s : State) (p : Plan) : (s.carryOut p).cmd = s.cmd := by simp [State.carryOut]
@[simp] theorem carryOut_args (s : State) (p : Plan) : (s.carryOut p).args = s.args := by simp [State.carryOut]
@[simp] theorem carryOut_err (s : State) (p : Plan) :
    (s.carryOut p).err = (s.err || p.code.isError) := by simp [State.carryOut]
@[simp] theorem carryOut_ovr (s : State) (p : Plan) : (s.carryOut p).ovr = s.ovr := by simp [State.carryOut]
@[simp] theorem carryOut_result (s : State) (p : Plan) : (s.carryOut p).result = p.code := by simp [State.carryOut]
@[simp] theorem carryOut_ctrl (s : State) (p : Plan) : (s.carryOut p).ctrl = s.ctrl := by simp [State.carryOut]
@[simp] theorem carryOut_geom (s : State) (p : Plan) :
    (s.carryOut p).geom = p.geom.getD s.geom := by simp [State.carryOut]
@[simp] theorem carryOut_faultInfo (s : State) (p : Plan) :
    (s.carryOut p).faultInfo = p.info := by simp [State.carryOut]
@[simp] theorem carryOut_clipSrc (s : State) (p : Plan) :
    (s.carryOut p).clipSrc = (p.clip.map (fun v => v.1)).getD s.clipSrc := by simp [State.carryOut]
@[simp] theorem carryOut_clipDst (s : State) (p : Plan) :
    (s.carryOut p).clipDst = (p.clip.map (fun v => v.2.1)).getD s.clipDst := by simp [State.carryOut]
@[simp] theorem carryOut_clipSize (s : State) (p : Plan) :
    (s.carryOut p).clipSize = (p.clip.map (fun v => v.2.2)).getD s.clipSize := by simp [State.carryOut]
@[simp] theorem carryOut_wcount (s : State) (p : Plan) :
    (s.carryOut p).wcount = BitVec.ofNat 32 (fbSets p.events) := by simp [State.carryOut]
@[simp] theorem carryOut_latch (s : State) (p : Plan) :
    (s.carryOut p).latch = { s.latch with valid := false } := by simp [State.carryOut]
@[simp] theorem carryOut_constructed (s : State) (p : Plan) :
    (s.carryOut p).constructed = (s.constructed || p.geom.isSome) := by simp [State.carryOut]
@[simp] theorem carryOut_view (s : State) (p : Plan) :
    (s.carryOut p).view = p.events.foldl (viewAfter s.latch.index) s.view := by simp [State.carryOut]
@[simp] theorem carryOut_trace (s : State) (p : Plan) :
    (s.carryOut p).trace = s.trace ++ p.events.map (fun e => { command := some s.latch.index, event := e }) := by simp [State.carryOut]
@[simp] theorem carryOut_issued (s : State) (p : Plan) : (s.carryOut p).issued = s.issued := by simp [State.carryOut]
@[simp] theorem carryOut_stores (s : State) (p : Plan) : (s.carryOut p).stores = s.stores := by simp [State.carryOut]
@[simp] theorem carryOut_earlier (s : State) (p : Plan) :
    (s.carryOut p).earlier = s.earlier := by simp [State.carryOut]
@[simp] theorem carryOut_geometry (s : State) (p : Plan) :
    (s.carryOut p).geometry = s.geometry := by simp [State.carryOut]
@[simp] theorem carryOut_agenda (s : State) (p : Plan) : (s.carryOut p).agenda = s.agenda := by simp [State.carryOut]
@[simp] theorem carryOut_readLog (s : State) (p : Plan) :
    (s.carryOut p).readLog = s.readLog := by simp [State.carryOut]

end Sys2Proof.Machine
end

