-- ==== Sys2Proof/Laws/Ops.lean ====
section
/-! SUPPORT. The shared operations, each said once: what carrying a plan out does, that a meaning is such a plan, and what
the engine's turn can be. -/

namespace Sys2Proof.Machine

/-- The plan a command's meaning carries out. -/
def planOf (i : Instr) (s : State) : Plan :=
  match i with
  | .clear => Plan.onSurface s (Plan.done [.fbClear])
  | .fillP c => Plan.onSurface s (planFill (unpack24 c))
  | .fillRgb r g b => Plan.onSurface s (planFill ⟨r, g, b⟩)
  | .setPixelP x y c => Plan.onSurface s (planSetPixel s x y (unpack24 c))
  | .setPixelRgb x y r g b => Plan.onSurface s (planSetPixel s x y ⟨r, g, b⟩)
  | .setBuffer h => Plan.onSurface s (planSetBuffer s h)
  | .setImage h => Plan.onSurface s (planSetImage s h 0 0)
  | .setImageOff h dx dy => Plan.onSurface s (planSetImage s h dx dy)
  | .setPwmBits n => Plan.onSurface s (Plan.done [.fbDepth n])
  | .construct rows chain => planConstruct s rows chain

/-- Every meaning carries one plan out. -/
theorem exec_eq (i : Instr) (s : State) : exec i s = .next (s.carryOut (planOf i s)) := by
  cases i <;> rfl

/-- The plan of the latched command, whatever its verdict (40 R123). -/
def latchedPlan (s : State) : Plan :=
  match decode s.latch.cmd s.latch.args with
  | .illegal => Plan.raise [] .illegalCmd s.latch.cmd
  | .malformed op => planMalformed s op
  | .form i => planOf i s

/-- Performing the latched command carries one plan out. -/
theorem perform_eq (s : State) : s.perform = .next (s.carryOut (latchedPlan s)) := by
  unfold State.perform latchedPlan
  cases decode s.latch.cmd s.latch.args with
  | illegal => rfl
  | malformed op => rfl
  | form i => exact exec_eq i s

/-- The engine's turn performs the latched command or, while idle, changes nothing. -/
theorem engineTurn_eq (s : State) :
    s.engineTurn = .next (if s.latch.valid then s.carryOut (latchedPlan s) else s) := by
  unfold State.engineTurn
  split_ifs
  · exact perform_eq s
  · rfl

/-- The events the latched command will issue, as they will stand on the trace. -/
theorem pendingEvents_eq (s : State) : s.pendingEvents =
    if s.latch.valid then
      (latchedPlan s).events.map (fun e => { command := some s.latch.index, event := e })
    else [] := by
  unfold State.pendingEvents
  rw [perform_eq]
  split_ifs
  · simp
  · rfl

/-- What carrying a plan out writes and what it keeps. -/
theorem carryOut_spec (s : State) (p : Plan) :
    Completed s (s.carryOut p) p.code p.info (fbSets p.events) ∧
    EventsAppended s (s.carryOut p) p.events ∧ OutsideKept s (s.carryOut p) ∧
    (p.clip = none → ClipKept s (s.carryOut p)) ∧ (p.geom = none → SurfaceKept s (s.carryOut p)) := by
  refine ⟨by simp [Completed], by simp [EventsAppended], by simp [OutsideKept], fun h => by simp [ClipKept, h],
    fun h => by simp [SurfaceKept, h]⟩

/-- A command that needs a surface, on a surface. -/
theorem onSurface_constructed (s : State) (p : Plan) (h : s.constructed = true) : Plan.onSurface s p = p := by
  simp [Plan.onSurface, h]

/-- A command that needs a surface, without one. -/
theorem onSurface_unconstructed (s : State) (p : Plan) (h : s.constructed = false) :
    Plan.onSurface s p = Plan.raise [] .notConstructed 0 := by
  simp [Plan.onSurface, h]

/-- The accesses the block answers (20 R69). -/
theorem accessLegal_iff (width off : Nat) : accessLegal width off = true ↔ width = 32 ∧ off % 4 = 0 ∧ off < 64 := by
  simp only [accessLegal, Bool.and_eq_true, decide_eq_true_eq, and_assoc]
  rfl

/-- One step is the engine's turn or the first pending action. -/
theorem step_eq (s : State) : step s =
    match s.agenda with
    | [] => s.engineTurn
    | e :: rest => applyInput e { s with agenda := rest } := rfl

/-- A step while no action is pending. -/
theorem step_idle (s : State) (h : s.agenda = []) : step s = s.engineTurn := by
  simp [step_eq, h]

/-- A step while an action is pending. -/
theorem step_cons (s : State) (e : Input) (rest : List Input) (h : s.agenda = e :: rest) :
    step s = applyInput e { s with agenda := rest } := by
  simp [step_eq, h]

end Sys2Proof.Machine
end

