-- ==== Sys2Proof/Laws/Input.lean ====
section
/-! SUPPORT. The machine's step on legal pending actions: it has a next state, and what is left of the agenda. -/

namespace Sys2Proof.Machine

theorem run_succ {k : Nat} {s t : State} (h : step s = .next t) :
    Sys2Proof.core.run (k + 1) s = Sys2Proof.core.run k t := by
  have hc : Sys2Proof.core.step s = .next t := h
  simp only [Host.Core.run]
  rw [hc]

/-- After the engine's turn the block is idle and the agenda as before. -/
theorem turn_agenda {s t : State} (h : s.engineTurn = .next t) : t.agenda = s.agenda ∧ t.busy = false := by
  rw [engineTurn_eq] at h
  cases h
  split_ifs with hv
  · exact ⟨by simp, rfl⟩
  · exact ⟨rfl, by simpa [State.busy] using hv⟩

theorem writeReg_agenda (s : State) (off : Nat) (v : Word) : (s.writeReg off v).agenda = s.agenda := by
  unfold State.writeReg State.writeCmd
  split <;> first
    | rfl
    | (split_ifs <;> rfl)

theorem writeReg_trace (s : State) (off : Nat) (v : Word) : (s.writeReg off v).trace = s.trace := by
  unfold State.writeReg State.writeCmd
  split <;> first
    | rfl
    | (split_ifs <;> rfl)

/-- A legal action has a next state; the agenda stays as it was but for a poll that finds BUSY = 1. -/
theorem applyInput_next (s : State) (e : Input) (he : e.harmless = true) : ∃ t, applyInput e s = .next t ∧
    (t.agenda = s.agenda ∨ (e = .poll ∧ s.busy = true ∧ t.busy = true ∧ t.agenda = .engine :: .poll :: s.agenda)) := by
  cases e with
  | read w off => exact ⟨s.hostRead off, if_pos he, Or.inl rfl⟩
  | write w off v => exact ⟨s.writeReg off v, if_pos he, Or.inl (writeReg_agenda s off v)⟩
  | poll =>
    refine ⟨_, rfl, ?_⟩
    unfold State.pollStatus
    split_ifs with h
    · exact Or.inr ⟨rfl, h, h, rfl⟩
    · exact Or.inl rfl
  | engine => exact ⟨_, engineTurn_eq s, Or.inl (turn_agenda (engineTurn_eq s)).1⟩
  | engineWithStatusWrite v => exact ⟨_, engineTurn_eq _, Or.inl (turn_agenda (engineTurn_eq (s.writeStatus v))).1⟩
  | reset n => exact ⟨_, rfl, Or.inl rfl⟩
  | setImage h r => exact ⟨_, rfl, Or.inl rfl⟩
  | setBuffer h b => exact ⟨_, rfl, Or.inl rfl⟩
  | foreignSurfaceWrite x y c => cases he

end Sys2Proof.Machine
end

