-- ==== Sys2Proof/Laws/Inv.lean ====
section
/-! SUPPORT. The invariant taken apart, and which states share it; that power-on reset and every change of the stores keep
the canonical forms. -/

namespace Sys2Proof.Machine

/-- The parts of the invariant. -/
theorem inv_iff (s : State) : s.inv = true ↔
    s.view.isSome = s.constructed ∧ (s.constructed = true ∨ s.geom = 0) ∧ s.viewSound = true ∧
    (s.result.isError = true ∨ s.faultInfo = 0) ∧ (s.latch.valid = false ∨ s.latch.index < s.issued) ∧
    (∀ e ∈ s.trace, e.tagBelow s.tagBound = true) ∧ s.stores.wf = true := by
  simp only [State.inv, Bool.and_eq_true, beq_iff_eq, Bool.or_eq_true, decide_eq_true_eq, Bool.not_eq_true',
    List.all_eq_true]
  tauto

/-- On a surface, a state of the invariant has a view, canonical and inside the surface. -/
theorem view_of_inv {s : State} (hi : s.inv = true) (hc : s.constructed = true) :
    ∃ v, s.view = some v ∧ v.wf = true ∧ v.inside s.width s.height = true := by
  obtain ⟨h₁, -, h₃, -⟩ := (inv_iff s).1 hi
  rw [hc] at h₁
  cases hv : s.view with
  | none => rw [hv] at h₁; cases h₁
  | some v =>
    unfold State.viewSound at h₃
    rw [hv] at h₃
    simp only [Bool.and_eq_true] at h₃
    exact ⟨v, rfl, h₃⟩

/-- Without a surface, a state of the invariant has no view. -/
theorem no_view_of_inv {s : State} (hi : s.inv = true) (hc : s.constructed = false) : s.view = none := by
  have h₁ := ((inv_iff s).1 hi).1
  rw [hc] at h₁
  cases hv : s.view with
  | none => rfl
  | some v => rw [hv] at h₁; cases h₁

/-- The invariant depends on these fields only. -/
theorem inv_congr {s t : State} (hi : s.inv = true) (h₁ : t.view = s.view) (h₂ : t.geom = s.geom)
    (h₃ : t.constructed = s.constructed) (h₄ : t.result = s.result) (h₅ : t.faultInfo = s.faultInfo)
    (h₆ : t.latch = s.latch) (h₇ : t.issued = s.issued) (h₈ : t.trace = s.trace) (h₉ : t.stores = s.stores) :
    t.inv = true := by
  rw [← hi]
  simp only [State.inv, State.viewSound, State.width, State.height, State.tagBound, h₁, h₂, h₃, h₄, h₅, h₆, h₇, h₈, h₉]

/-- A tag below a bound is below every higher one. -/
theorem tagBelow_mono {m n : Nat} (h : m ≤ n) (e : TraceEntry) (he : e.tagBelow m = true) : e.tagBelow n = true := by
  obtain ⟨_ | k, ev⟩ := e
  · rfl
  · simp only [TraceEntry.tagBelow, decide_eq_true_eq] at *
    omega

/-- Cells read the same where the view and the geometry are the same. -/
theorem cellsKept_of_view {s t : State} (hv : t.view = s.view) (hg : t.geom = s.geom) : CellsKept s t := by
  intro x y
  have hw : t.width = s.width := by simp only [State.width, hg]
  have hh : t.height = s.height := by simp only [State.height, hg]
  simp only [State.fb, hv, hw, hh]

/-- Power-on reset has the canonical forms. -/
theorem reset_wf : State.reset.viewSound = true ∧ State.reset.stores.wf = true := ⟨rfl, rfl⟩

/-- A change of the image store keeps the stores canonical. -/
theorem setImage_wf (s : State) (h : Word) (r : Option ImageRec) (hw : s.stores.wf = true) :
    (s.setImage h r).stores.wf = true := by
  simp only [Stores.wf, Bool.and_eq_true] at hw
  simp only [State.setImage, State.changeStores, Stores.wf, Bool.and_eq_true]
  exact ⟨tabInsert_rising _ _ _ hw.1, hw.2⟩

/-- A change of the buffer store keeps the stores canonical. -/
theorem setBuffer_wf (s : State) (h : Word) (b : Option (List Byte)) (hw : s.stores.wf = true) :
    (s.setBuffer h b).stores.wf = true := by
  simp only [Stores.wf, Bool.and_eq_true] at hw
  simp only [State.setBuffer, State.changeStores, Stores.wf, Bool.and_eq_true]
  exact ⟨hw.1, tabInsert_rising _ _ _ hw.2⟩

end Sys2Proof.Machine
end

