-- ==== Sys2Proof/Laws/PerInstr.lean ====
section
/-! SUPPORT. A statement made about every command as syntax, one lemma for each: its command word has the layout of
30 R90, its shape is accepted by R92, and the arguments its NARGS does not count are written 0. -/

namespace Sys2Proof.Laws

open Sys2Proof.Machine

/-- The layout of a command's words (30 R90, R92, R96). -/
def CommandWord.Statement (i : Instr) : Prop :=
  (commandWord i).toNat < 4096 ∧
    ((commandWord i).toNat % 256, (commandWord i).toNat / 256) ∈ acceptedShapes ∧
    ∀ a ∈ (argumentList (argumentWords i)).drop ((commandWord i).toNat / 256), a = 0

/-- The layout from a command's word as a numeral. -/
theorem commandWord_layout (i : Instr) (w : Word) (hw : commandWord i = w) (hr : w.toNat < 4096)
    (hs : (w.toNat % 256, w.toNat / 256) ∈ acceptedShapes)
    (ha : ∀ a ∈ (argumentList (argumentWords i)).drop (w.toNat / 256), a = 0) : CommandWord.Statement i := by
  subst hw
  exact ⟨hr, hs, ha⟩

theorem CommandWord.clear : CommandWord.Statement .clear :=
  commandWord_layout _ 0x00000001 rfl (by decide) (by decide) (by simp [argumentList, argumentWords, Args.zero])

theorem CommandWord.fillP (c : Word) : CommandWord.Statement (.fillP c) :=
  commandWord_layout _ 0x00000102 rfl (by decide) (by decide) (by simp [argumentList, argumentWords])

theorem CommandWord.fillRgb (r g b : Byte) : CommandWord.Statement (.fillRgb r g b) :=
  commandWord_layout _ 0x00000302 rfl (by decide) (by decide) (by simp [argumentList, argumentWords])

theorem CommandWord.setPixelP (x y : Int) (c : Word) : CommandWord.Statement (.setPixelP x y c) :=
  commandWord_layout _ 0x00000303 rfl (by decide) (by decide) (by simp [argumentList, argumentWords])

theorem CommandWord.setPixelRgb (x y : Int) (r g b : Byte) : CommandWord.Statement (.setPixelRgb x y r g b) :=
  commandWord_layout _ 0x00000503 rfl (by decide) (by decide) (by simp [argumentList, argumentWords])

theorem CommandWord.setBuffer (h : Word) : CommandWord.Statement (.setBuffer h) :=
  commandWord_layout _ 0x00000104 rfl (by decide) (by decide) (by simp [argumentList, argumentWords])

theorem CommandWord.setImage (h : Word) : CommandWord.Statement (.setImage h) :=
  commandWord_layout _ 0x00000105 rfl (by decide) (by decide) (by simp [argumentList, argumentWords])

theorem CommandWord.setImageOff (h : Word) (dx dy : Int) : CommandWord.Statement (.setImageOff h dx dy) :=
  commandWord_layout _ 0x00000305 rfl (by decide) (by decide) (by simp [argumentList, argumentWords])

theorem CommandWord.setPwmBits (n : Byte) : CommandWord.Statement (.setPwmBits n) :=
  commandWord_layout _ 0x00000106 rfl (by decide) (by decide) (by simp [argumentList, argumentWords])

theorem CommandWord.construct (rows chain : Nat) : CommandWord.Statement (.construct rows chain) :=
  commandWord_layout _ 0x00000207 rfl (by decide) (by decide) (by simp [argumentList, argumentWords])

end Sys2Proof.Laws
end

