-- ==== Sys2Proof/Laws/Plans.lean ====
section
/-! SUPPORT. What the plans of the commands are on a surface and without one, and what a command does whose plan writes
only the completion registers. -/

namespace Sys2Proof.Machine

/-- The channels of a packed color by arithmetic. -/
theorem unpack24_eq (w : Word) : unpack24 w = packedRgb w := by
  simp only [unpack24, packedRgb, field_eq_ofNat]
  simp

/-- Carrying a plan out appends exactly its events. -/
theorem appended_eq {s : State} {p : Plan} {evs : List Event} (h : EventsAppended s (s.carryOut p) evs) :
    evs = p.events :=
  List.map_injective_iff.2 (fun _ _ hab => (TraceEntry.mk.inj hab).2)
    (List.append_cancel_left (h.symm.trans (carryOut_spec s p).2.1))

/-- A property of every command's plan: of NOT_CONSTRUCTED, of the plans on a surface, and of CONSTRUCT's without one. -/
theorem planOf_cases (P : Plan → Prop) (s : State) (i : Instr) (hn : P (Plan.raise [] .notConstructed 0))
    (hs : s.constructed = true → P (planOf i s))
    (hc : s.constructed = false → ∀ rows chain, i = .construct rows chain → P (planOf i s)) : P (planOf i s) := by
  cases hb : s.constructed with
  | true => exact hs hb
  | false =>
    cases i
    case construct rows chain => exact hc hb _ _ rfl
    all_goals
      simp only [planOf, onSurface_unconstructed s _ hb]
      exact hn

theorem planOf_isSetImage {i : Instr} {h : Word} {dx dy : Int} (hi : IsSetImage i h dx dy) (s : State) :
    planOf i s = Plan.onSurface s (planSetImage s h dx dy) := by
  rcases hi with rfl | ⟨rfl, rfl, rfl⟩ <;> rfl

theorem planOf_isSetPixel {i : Instr} {x y : Int} {c : RGB} (hi : IsSetPixel i x y c) (s : State) :
    planOf i s = Plan.onSurface s (planSetPixel s x y c) := by
  rcases hi with ⟨w, rfl, rfl⟩ | rfl
  · rw [← unpack24_eq]
    rfl
  · rfl

theorem malformed_events (s : State) (op : Nat) : (planMalformed s op).events = [] := by
  unfold planMalformed Plan.onSurface
  split_ifs <;> rfl

/-- The engine's turn, where it appended these events: the latched command's plan carried out, or nothing. -/
theorem turn_cases {s t : State} {evs : List Event} (h : s.engineTurn = .next t) (he : EventsAppended s t evs) :
    (s.latch.valid = true ∧ t = s.carryOut (latchedPlan s) ∧ evs = (latchedPlan s).events) ∨
      (s.latch.valid = false ∧ t = s ∧ evs = []) := by
  rw [engineTurn_eq] at h
  split_ifs at h with hv
  · cases h
    exact Or.inl ⟨hv, rfl, appended_eq he⟩
  · cases h
    refine Or.inr ⟨by simpa using hv, rfl, ?_⟩
    unfold EventsAppended at he
    simpa using he

/-- The blit loop depends on the image only through the decoding of its pixels. -/
theorem blitLoop_congr (s s' : State) (h : Word) (img img' : ImageRec) (c : Clip) (ps : List (Nat × Nat))
    (hd : ∀ p ∈ ps, s'.decodeAt h img' (c.source p) = s.decodeAt h img (c.source p)) :
    s'.blitLoop h img' c ps = s.blitLoop h img c ps := by
  induction ps with
  | nil => rfl
  | cons p ps ih =>
    simp only [State.blitLoop]
    rw [hd p (by simp), ih fun q hq => hd q (List.mem_cons_of_mem _ hq)]

end Sys2Proof.Machine
end

