-- ==== Sys2Proof/Laws/PlanEvents.lean ====
section
/-! SUPPORT. Every event that a command's plan holds, said once: of a kind the command issues, and in range. -/

namespace Sys2Proof.Machine

/-- An event of a kind that the command issues; a write on the surface; a read inside the record its descriptor read
answered. -/
def EventOk (s : State) (i : Instr) (e : Event) : Prop :=
  e.allowedFor i = true ∧ (∀ x y c, e = .fbSet x y c → x < s.width ∧ y < s.height) ∧
  (∀ h x y, e = .pixRead h x y → ∃ img, s.imgDesc h = some img ∧ x < img.width.toNat ∧ y < img.height.toNat) ∧
  (∀ h k, e = .palRead h k → ∃ img, s.imgDesc h = some img ∧ k < img.palLen * 3) ∧
  (∀ h k, e = .bufRead h k → ∃ buf, s.bufDesc h = some buf ∧ k < buf.length)

/-- An event of an allowed kind that is neither a cell write nor a data read. -/
theorem eventOk_of_kind {s : State} {i : Instr} {e : Event} (ha : e.allowedFor i = true)
    (h₁ : ∀ x y c, e ≠ .fbSet x y c) (h₂ : ∀ h x y, e ≠ .pixRead h x y) (h₃ : ∀ h k, e ≠ .palRead h k)
    (h₄ : ∀ h k, e ≠ .bufRead h k) : EventOk s i e :=
  ⟨ha, fun x y c he => absurd he (h₁ x y c), fun h x y he => absurd he (h₂ h x y),
    fun h k he => absurd he (h₃ h k), fun h k he => absurd he (h₄ h k)⟩

/-- The bytes of a pixel of the surface lie in a buffer of the surface's size (42 R151). -/
theorem bufferOffset_lt (w h x y k : Nat) (hx : x < w) (hy : y < h) (hk : k < 3) :
    bufferOffset w x y + k < w * h * 3 := by
  have h₁ : (y + 1) * w ≤ h * w := Nat.mul_le_mul_right _ hy
  have h₂ : y * w + w = (y + 1) * w := by ring
  have h₃ : w * h = h * w := Nat.mul_comm _ _
  simp only [bufferOffset]
  omega

theorem allowedFor_setImage {i : Instr} {h : Word} {dx dy : Int} (hi : IsSetImage i h dx dy) (g : Word) (x y : Nat)
    (c : RGB) : (Event.imgDesc g).allowedFor i = true ∧ (Event.pixRead g x y).allowedFor i = true ∧
      (Event.palRead g x).allowedFor i = true ∧ (Event.fbSet x y c).allowedFor i = true := by
  rcases hi with rfl | ⟨rfl, -, -⟩ <;> exact ⟨rfl, rfl, rfl, rfl⟩

theorem events_setImage {s : State} {i : Instr} {h : Word} {dx dy : Int} (hi : IsSetImage i h dx dy) :
    ∀ e ∈ (planSetImage s h dx dy).events, EventOk s i e := by
  have hal := allowedFor_setImage hi
  have hdesc : EventOk s i (.imgDesc h) :=
    eventOk_of_kind (hal h 0 0 RGB.black).1 (by simp) (by simp) (by simp) (by simp)
  intro e he
  cases hd : s.imgDesc h with
  | none =>
    simp only [planSetImage, hd, Plan.raise, List.mem_singleton] at he
    exact he ▸ hdesc
  | some img =>
    have hm : e = .imgDesc h ∨ ((s.imageClip img dx dy).degenerate = false ∧
        e ∈ (s.blitLoop h img (s.imageClip img dx dy) (s.imageClip img dx dy).pixels).1) := by
      simp only [planSetImage, hd, planVisible] at he
      split_ifs at he with h₁ h₂
      · exact Or.inl (by simpa [Plan.withClip, Plan.note] using he)
      · simp only [Plan.withClip] at he
        split at he <;> simp only [Plan.raise, Plan.done, List.mem_cons] at he
        · exact he.imp_right fun h => ⟨by simpa using h₁, h⟩
        · exact he.imp_right fun h => ⟨by simpa using h₁, h⟩
      · exact Or.inl (by simpa [Plan.withClip, Plan.note] using he)
    rcases hm with rfl | ⟨hdeg, hm⟩
    · exact hdesc
    · have hf := clip_inside _ _ _ _ _ _ hdeg
      simp only at hf
      obtain ⟨p, hp, hpe⟩ := blitLoop_mem _ _ _ _ _ _ hm
      simp only [Clip.pixels, mem_rowMajor, State.imageClip] at hp
      rcases hpe with rfl | ⟨reads, rgb, hdd, hr | rfl⟩
      · refine ⟨(hal _ _ _ RGB.black).2.1, by simp, fun h' x y hh => ?_, by simp, by simp⟩
        cases hh
        refine ⟨img, hd, ?_⟩
        simp only [Clip.source, State.imageClip]
        omega
      · obtain ⟨k, rfl, hk⟩ := decodeAt_reads s h img _ _ _ hdd e hr
        refine ⟨(hal _ _ 0 RGB.black).2.2.1, by simp, by simp, fun h' k' hh => ?_, by simp⟩
        cases hh
        exact ⟨img, hd, hk⟩
      · refine ⟨(hal h _ _ _).2.2.2, fun x y c hh => ?_, by simp, by simp, by simp⟩
        cases hh
        simp only [Clip.target, State.imageClip]
        omega

theorem events_setBuffer (s : State) (h : Word) : ∀ e ∈ (planSetBuffer s h).events, EventOk s (.setBuffer h) e := by
  have hdesc : EventOk s (.setBuffer h) (.bufLen h) :=
    eventOk_of_kind rfl (by simp) (by simp) (by simp) (by simp)
  intro e he
  simp only [planSetBuffer] at he
  cases hd : s.bufDesc h with
  | none =>
    simp only [hd, Plan.raise, List.mem_singleton] at he
    exact he ▸ hdesc
  | some buf =>
    simp only [hd] at he
    split_ifs at he with hl
    · simp only [Plan.raise, List.mem_singleton] at he
      exact he ▸ hdesc
    · simp only [Plan.done, List.mem_cons, List.mem_flatMap] at he
      rcases he with rfl | ⟨p, hp, he⟩
      · exact hdesc
      · rw [mem_rowMajor] at hp
        rcases bufferPixel_mem s h buf p e he with ⟨k, hk, rfl⟩ | rfl
        · refine ⟨rfl, by simp, by simp, by simp, fun h' k' hh => ?_⟩
          cases hh
          have := bufferOffset_lt s.width s.height p.1 p.2 k hp.1 hp.2 hk
          exact ⟨buf, hd, by omega⟩
        · refine ⟨rfl, fun x y c hh => ?_, by simp, by simp, by simp⟩
          cases hh
          exact hp

theorem events_setPixel {s : State} {i : Instr} {x y : Int} {c : RGB}
    (ha : ∀ a b, (Event.fbSet a b c).allowedFor i = true) : ∀ e ∈ (planSetPixel s x y c).events, EventOk s i e := by
  intro e he
  simp only [planSetPixel, planOutOfRange] at he
  split_ifs at he with hin ho
  · simp only [Plan.done, List.mem_singleton] at he
    simp only [State.inSurface, Bool.and_eq_true, decide_eq_true_eq] at hin
    subst he
    refine ⟨ha _ _, fun a b c' hh => ?_, by simp, by simp, by simp⟩
    cases hh
    omega
  · simp [Plan.raise] at he
  · simp [Plan.note] at he

theorem events_construct (s : State) (rows chain : Nat) :
    ∀ e ∈ (planConstruct s rows chain).events, EventOk s (.construct rows chain) e := by
  have ha : ∀ a, EventOk s (.construct rows chain) (.surfAlloc rows chain a) :=
    fun a => eventOk_of_kind rfl (by simp) (by simp) (by simp) (by simp)
  have hr : EventOk s (.construct rows chain) .surfRelease := eventOk_of_kind rfl (by simp) (by simp) (by simp) (by simp)
  intro e he
  unfold planConstruct at he
  split at he
  · simp [Plan.raise] at he
  · split at he
    · simp only [Plan.raise, List.mem_singleton] at he
      exact he ▸ ha _
    · split_ifs at he
      · simp only [Plan.raise, List.mem_cons, List.not_mem_nil, or_false] at he
        rcases he with rfl | rfl
        · exact ha _
        · exact hr
      · simp only [Plan.done, List.mem_singleton] at he
        exact he ▸ ha _

/-- Every event of a command's plan. -/
theorem planOf_events (s : State) (i : Instr) : ∀ e ∈ (planOf i s).events, EventOk s i e := by
  have surf : ∀ p : Plan, (∀ e ∈ p.events, EventOk s i e) → ∀ e ∈ (Plan.onSurface s p).events, EventOk s i e := by
    intro p hp e he
    unfold Plan.onSurface at he
    split at he
    · exact hp e he
    · simp [Plan.raise] at he
  have one : ∀ e₀ : Event, EventOk s i e₀ → ∀ e ∈ (Plan.done [e₀]).events, EventOk s i e := by
    intro e₀ h₀ e he
    simp only [Plan.done, List.mem_singleton] at he
    exact he ▸ h₀
  cases i
  case clear => exact surf _ (one _ (eventOk_of_kind rfl (by simp) (by simp) (by simp) (by simp)))
  case fillP c => exact surf _ (one _ (eventOk_of_kind rfl (by simp) (by simp) (by simp) (by simp)))
  case fillRgb r g b => exact surf _ (one _ (eventOk_of_kind rfl (by simp) (by simp) (by simp) (by simp)))
  case setPwmBits n => exact surf _ (one _ (eventOk_of_kind rfl (by simp) (by simp) (by simp) (by simp)))
  case setPixelP x y c => exact surf _ (events_setPixel fun _ _ => rfl)
  case setPixelRgb x y r g b => exact surf _ (events_setPixel fun _ _ => rfl)
  case setBuffer h => exact surf _ (events_setBuffer s h)
  case setImage h => exact surf _ (events_setImage (dx := 0) (dy := 0) (Or.inr ⟨rfl, rfl, rfl⟩))
  case setImageOff h dx dy => exact surf _ (events_setImage (Or.inl rfl))
  case construct rows chain => exact events_construct s rows chain

/-- Every event the latched command issues is its form's. -/
theorem latched_events (s : State) (e : Event) (he : e ∈ (latchedPlan s).events) :
    ∃ i, decode s.latch.cmd s.latch.args = .form i ∧ latchedPlan s = planOf i s ∧ EventOk s i e := by
  unfold latchedPlan at he ⊢
  cases hd : decode s.latch.cmd s.latch.args with
  | illegal =>
    rw [hd] at he
    simp [Plan.raise] at he
  | malformed op =>
    rw [hd] at he
    simp [malformed_events] at he
  | form i =>
    rw [hd] at he
    exact ⟨i, rfl, rfl, planOf_events s i e he⟩

end Sys2Proof.Machine
end

