-- ==== Sys2Proof/Tests/Slice0.lean ====
section
/-! SUPPORT. Tests whose expected values come from spec/30_encoding.md (the words written out from its tables) and from
the vectors of spec/95_test_vectors.md (their names in the docstrings), and one witness for the hypotheses of each
statement. -/

namespace Sys2Proof.Tests

open Sys2Proof Sys2Proof.Machine

/-! ### Well-formedness: each check refuses an ill-formed command -/

theorem test_wf_setPixelP_x : (Instr.setPixelP 2147483648 0 0).wellFormed = false := by decide
theorem test_wf_setPixelP_y : (Instr.setPixelP 0 (-2147483649) 0).wellFormed = false := by decide
theorem test_wf_setPixelRgb_x : (Instr.setPixelRgb (-2147483649) 0 1 2 3).wellFormed = false := by decide
theorem test_wf_setPixelRgb_y : (Instr.setPixelRgb 0 2147483648 1 2 3).wellFormed = false := by decide
theorem test_wf_setImageOff_dx : (Instr.setImageOff 7 2147483648 0).wellFormed = false := by decide
theorem test_wf_setImageOff_dy : (Instr.setImageOff 7 0 (-2147483649)).wellFormed = false := by decide
theorem test_wf_construct_rows : (Instr.construct 4294967296 1).wellFormed = false := by decide
theorem test_wf_construct_chain : (Instr.construct 1 4294967296).wellFormed = false := by decide
theorem test_wf_bounds : (Instr.setImageOff 7 (-2147483648) 2147483647).wellFormed = true ∧
    (Instr.construct 4294967295 4294967295).wellFormed = true := by decide

/-! ### Decoding: the words of 30 R93, OPCODE in bits 7:0, NARGS in bits 11:8 -/

theorem test_decode_clear : decode 0b0000_00000001 ⟨1, 2, 3, 4, 5⟩ = .form .clear := by decide
theorem test_decode_fillP : decode 0b0001_00000010 ⟨0x102030, 2, 3, 4, 5⟩ = .form (.fillP 0x102030) := by decide
theorem test_decode_fillRgb : decode 0b0011_00000010 ⟨256, 0, 511, 4, 5⟩ = .form (.fillRgb 0 0 255) := by decide
theorem test_decode_setPixelP :
    decode 0b0011_00000011 ⟨0xFFFFFFFF, 2, 0x0A0B0C, 4, 5⟩ = .form (.setPixelP (-1) 2 0x0A0B0C) := by decide
theorem test_decode_setPixelRgb :
    decode 0b0101_00000011 ⟨3, 0x80000000, 300, 20, 40⟩ = .form (.setPixelRgb 3 (-2147483648) 44 20 40) := by decide
theorem test_decode_setBuffer : decode 0b0001_00000100 ⟨2, 7, 7, 7, 7⟩ = .form (.setBuffer 2) := by decide
theorem test_decode_setImage : decode 0b0001_00000101 ⟨9, 7, 7, 7, 7⟩ = .form (.setImage 9) := by decide
theorem test_decode_setImageOff :
    decode 0b0011_00000101 ⟨7, 0xFFFFFFFF, 0x7FFFFFFF, 7, 7⟩ = .form (.setImageOff 7 (-1) 2147483647) := by decide
theorem test_decode_setPwmBits : decode 0b0001_00000110 ⟨0x107, 7, 7, 7, 7⟩ = .form (.setPwmBits 7) := by decide
theorem test_decode_construct :
    decode 0b0010_00000111 ⟨0xFFFFFFFF, 1, 7, 7, 7⟩ = .form (.construct 4294967295 1) := by decide
/-- The verdicts that 95 section 2.7 lists for words that are no form. -/
theorem test_decode_illegal : decode 0x00000000 Args.zero = .illegal ∧ decode 0x00000008 Args.zero = .illegal ∧
    decode 0x000000FF Args.zero = .illegal ∧ decode 0x00001001 Args.zero = .illegal ∧
    decode 0x80000102 Args.zero = .illegal := by decide
theorem test_decode_malformed : decode 0x101 Args.zero = .malformed 1 ∧ decode 0x202 Args.zero = .malformed 2 ∧
    decode 0x402 Args.zero = .malformed 2 ∧ decode 0xF05 Args.zero = .malformed 5 ∧
    decode 0x203 Args.zero = .malformed 3 ∧ decode 0x007 Args.zero = .malformed 7 := by decide
/-- A table word of 192 bits carries the argument words above bit 31; one of 32 bits has them all 0. -/
theorem test_decodeTableWord : decodeTableWord 32 0x00000207 = some (.construct 0 0) ∧
    decodeTableWord 96 0x00000001_00000020_00000207 = some (.construct 32 1) ∧
    decodeTableWord 32 0x00001001 = none := by decide

/-- The table word of a form, placed by `withFetchWord`, is what the next step performs (40 R123): without a surface CLEAR
completes with NOT_CONSTRUCTED, and CONSTRUCT asks the surface. -/
theorem test_fetchWord : (∃ t, step (State.reset.withFetchWord 32 0x00000001) = .next t ∧ t.result = .notConstructed ∧
    t.cmd = 1 ∧ t.latch.valid = false) ∧ ∃ t, step (State.reset.withFetchWord 32 0x00000207) = .next t :=
  ⟨⟨_, rfl, rfl, rfl, rfl⟩, _, rfl⟩

/-! ### The fixtures of 95 -/

/-- Palette8, 3x3, the palette of S-DEC-3 (95 section 2.5, image 7). -/
def image7 : ImageRec :=
  { width := 3, height := 3, format := 2, palLen := 3, pixels := [0, 1, 2, 1, 2, 0, 2, 0, 1],
    palette := [0, 0, 0, 10, 20, 30, 40, 50, 60],
    palLen_le := by decide, pixels_length := by decide, palette_length := by decide }

/-- TrueColor, 2x2 (95 P3, image 5). -/
def image5 : ImageRec :=
  { width := 2, height := 2, format := 0, palLen := 0,
    pixels := [0x00112233, 0xAA445566, 0xFF8899AA, 0x00CCDDEE], palette := [],
    palLen_le := by decide, pixels_length := by decide, palette_length := by decide }

/-- Bitmap1, 4x1 (95 P4, image 9). -/
def image9 : ImageRec :=
  { width := 4, height := 1, format := 1, palLen := 0, pixels := [0x00, 0x01, 0xFF, 0x100], palette := [],
    palLen_le := by decide, pixels_length := by decide, palette_length := by decide }

/-- Palette8, 2x2, two palette entries and an index 5 (95 V-IMG-08, image 11). -/
def image11 : ImageRec :=
  { width := 2, height := 2, format := 2, palLen := 2, pixels := [0, 1, 5, 0], palette := [1, 1, 1, 2, 2, 2],
    palLen_le := by decide, pixels_length := by decide, palette_length := by decide }

/-- 2x2 of an unsupported format (95 V-IMG-06, image 13). -/
def image13 : ImageRec :=
  { width := 2, height := 2, format := 5, palLen := 0, pixels := [0, 0, 0, 0], palette := [],
    palLen_le := by decide, pixels_length := by decide, palette_length := by decide }

/-- The stores of 95: buffer 1 has 11 bytes, buffer 2 has 12; there is no buffer 9 and no image 12. -/
def stores : Stores :=
  { images := [(5, some image5), (7, some image7), (9, some image9), (11, some image11), (12, none), (13, some image13)]
    buffers := [(1, some [1, 2, 3, 4, 5, 6, 7, 8, 9, 10, 11]), (2, some [1, 2, 3, 4, 5, 6, 7, 8, 9, 10, 11, 12]),
      (9, none)] }

/-- After reset, with the fixture geometry of 95 (and one more pair, for the largest geometry that fits). -/
def unbuilt : State :=
  { State.reset with
    stores := stores
    geometry := [((4, 1), some (4, 4)), ((5, 5), none), ((70000, 1), some (70000, 1)), ((8, 8), some (65535, 65535)),
      ((9, 9), some (65535, 65536))] }

/-- On a surface of `w` columns and `h` rows, every cell (9, 9, 9), with these CTRL bits. -/
def built (w h : Nat) (diagEn oorErr : Bool) : State :=
  { unbuilt with
    ctrl := ⟨diagEn, oorErr⟩
    geom := halves h w
    constructed := true
    view := some (View.filled ⟨9, 9, 9⟩)
    issued := 1 }

/-- The state with a command word and arguments issued. -/
def issued (s : State) (w : Word) (a : Args) : State := { s with args := a }.issue w

/-- What a step answers, when it answers a next state. -/
def nextOf (o : Host.Outcome State Fault Refusal) : Option State :=
  match o with
  | .next t => some t
  | .fault _ => none
  | .refused _ => none

/-- One step that performs the given words: what `f` sees of the next state. -/
def performed {α : Type} (s : State) (w : Word) (a : Args) (f : State → α) : Option α :=
  (nextOf (step (issued s w a))).map f

/-- RESULT, and FAULT_INFO, WCOUNT and STATUS. -/
def summary (t : State) : Result × List Word := (t.result, [t.readReg 0x24, t.readReg 0x34, t.readReg 0x18])

/-- CLIP_SRC, CLIP_DST and CLIP_SIZE. -/
def clips (t : State) : List Word := [t.readReg 0x28, t.readReg 0x2C, t.readReg 0x30]

/-- The colors of some cells. -/
def cells (ps : List (Nat × Nat)) (t : State) : List (Option RGB) := ps.map (fun p => t.fb p.1 p.2)

/-- The port events a step added to an empty trace. -/
def events (t : State) : List Event := t.trace.map TraceEntry.event

/-! ### One step of each command -/

/-- V-SUR-01 -/
theorem test_clear : performed (built 4 4 false false) 0x001 Args.zero
    (fun t => (summary t, events t, cells [(3, 3)] t)) =
    some ((.ok, [0, 0, 0x008]), [.fbClear], [some ⟨0, 0, 0⟩]) := by decide
/-- V-SUR-03 -/
theorem test_fillP : performed (built 4 4 false false) 0x102 ⟨0xFF0000FF, 0, 0, 0, 0⟩
    (fun t => (summary t, events t, cells [(0, 3)] t)) =
    some ((.ok, [0, 0, 0x008]), [.fbFill ⟨0, 0, 255⟩], [some ⟨0, 0, 255⟩]) := by decide
/-- V-SUR-04 -/
theorem test_fillRgb : performed (built 4 4 false false) 0x302 ⟨256, 0, 511, 0, 0⟩
    (fun t => (summary t, events t, cells [(3, 0)] t)) =
    some ((.ok, [0, 0, 0x008]), [.fbFill ⟨0, 0, 255⟩], [some ⟨0, 0, 255⟩]) := by decide
/-- V-SUR-05 -/
theorem test_setPixelP : performed (built 4 4 false false) 0x303 ⟨1, 2, 0xFF0A0B0C, 0, 0⟩
    (fun t => (summary t, cells [(1, 2), (2, 1)] t)) =
    some ((.ok, [0, 1, 0x008]), [some ⟨10, 11, 12⟩, some ⟨9, 9, 9⟩]) := by decide
/-- V-SUR-10 -/
theorem test_setPixelP_coordRange : performed (built 4 4 false true) 0x303 ⟨0xFFFFFFFF, 0xFFFFFFFF, 0, 0, 0⟩
    (fun t => (summary t, events t)) = some ((.coordRange, [0xFFFFFFFF, 0, 0xE0A]), []) := by decide
/-- V-SUR-06 -/
theorem test_setPixelRgb : performed (built 4 4 false false) 0x503 ⟨3, 3, 300, 20, 40⟩
    (fun t => (summary t, cells [(3, 3)] t)) = some ((.ok, [0, 1, 0x008]), [some ⟨44, 20, 40⟩]) := by decide
/-- V-SUR-08, by channels -/
theorem test_setPixelRgb_dropped : performed (built 4 4 true false) 0x503 ⟨4, 0, 0, 0, 0⟩
    (fun t => (summary t, events t)) = some ((.diagPixelDropped, [0, 0, 0x408]), []) := by decide
/-- S-BUF-1 -/
theorem test_setBuffer : performed (built 2 2 false false) 0x104 ⟨2, 0, 0, 0, 0⟩
    (fun t => (summary t, cells [(0, 0), (1, 0), (0, 1), (1, 1)] t)) =
    some ((.ok, [0, 4, 0x008]), [some ⟨1, 2, 3⟩, some ⟨4, 5, 6⟩, some ⟨7, 8, 9⟩, some ⟨10, 11, 12⟩]) := by decide
/-- S-BUF-2, V-BUF-02 -/
theorem test_setBuffer_mismatch : performed (built 2 2 false false) 0x104 ⟨1, 0, 0, 0, 0⟩
    (fun t => (summary t, events t)) = some ((.sizeMismatch, [0x0B, 0, 0x80A]), [.bufLen 1]) := by decide
/-- P4 line 7: Bitmap1 -/
theorem test_setImage : performed (built 4 4 true false) 0x105 ⟨9, 0, 0, 0, 0⟩
    (fun t => (summary t, clips t, cells [(0, 0), (1, 0), (2, 0), (3, 0)] t)) =
    some ((.ok, [0, 4, 0x008]), [0, 0, 0x00010004],
      [some ⟨0, 0, 0⟩, some ⟨255, 255, 255⟩, some ⟨255, 255, 255⟩, some ⟨0, 0, 0⟩]) := by decide
/-- V-IMG-08: PALETTE_RANGE after two pixels -/
theorem test_setImage_paletteRange : performed (built 4 4 false false) 0x105 ⟨11, 0, 0, 0, 0⟩
    (fun t => (summary t, clips t, cells [(0, 0), (1, 0), (0, 1)] t)) =
    some ((.paletteRange, [0x00010000, 2, 0xC0A]), [0, 0, 0x00020002],
      [some ⟨1, 1, 1⟩, some ⟨2, 2, 2⟩, some ⟨9, 9, 9⟩]) := by decide
/-- V-IMG-01, with the trace of P2 line 4 up to its first write -/
theorem test_setImageOff : performed (built 4 4 true false) 0x305 ⟨7, 0xFFFFFFFF, 0xFFFFFFFF, 0, 0⟩
    (fun t => (summary t, clips t, cells [(0, 0), (1, 0), (1, 1)] t, (events t).take 6)) =
    some ((.ok, [0, 4, 0x008]), [0x00010001, 0, 0x00020002],
      [some ⟨40, 50, 60⟩, some ⟨0, 0, 0⟩, some ⟨10, 20, 30⟩],
      [.imgDesc 7, .pixRead 7 1 1, .palRead 7 6, .palRead 7 7, .palRead 7 8, .fbSet 0 0 ⟨40, 50, 60⟩]) := by decide
/-- V-IMG-10: TrueColor on the 2x2 surface -/
theorem test_setImageOff_trueColor : performed (built 2 2 false false) 0x305 ⟨5, 1, 0, 0, 0⟩
    (fun t => (summary t, clips t, cells [(1, 0), (1, 1), (0, 0)] t)) =
    some ((.ok, [0, 2, 0x008]), [0, 0x00000001, 0x00020001],
      [some ⟨51, 34, 17⟩, some ⟨170, 153, 136⟩, some ⟨9, 9, 9⟩]) := by decide
/-- V-SUR-13 -/
theorem test_setPwmBits : performed (built 4 4 false false) 0x106 ⟨0x107, 0, 0, 0, 0⟩
    (fun t => (summary t, events t)) = some ((.ok, [0, 0, 0x008]), [.fbDepth 7]) := by decide
/-- V-CON-01 -/
theorem test_construct : performed unbuilt 0x207 ⟨4, 1, 0, 0, 0⟩ (fun t => (summary t, t.readReg 0x20, events t)) =
    some ((.ok, [0, 0, 0x008]), 0x00040004, [.surfAlloc 4 1 (some (4, 4))]) := by decide
/-- V-CON-04 -/
theorem test_construct_tooLarge : performed unbuilt 0x207 ⟨70000, 1, 0, 0, 0⟩
    (fun t => (summary t, t.readReg 0x20, events t)) =
    some ((.constructFailed, [3, 0, 0x902]), 0, [.surfAlloc 70000 1 (some (70000, 1)), .surfRelease]) := by decide

/-! ### The clipper, the codec and the engine -/

/-- V-CLIP-12, V-CLIP-16, V-CLIP-22, V-CLIP-24 -/
theorem test_clip : clip 32 32 40 40 (-5) (-3) = ⟨5, 3, 0, 0, 32, 32⟩ ∧
    (clip 32 32 65535 65535 (-2147483648) 0).w = -2147418113 ∧ (clip 32 32 10 10 5 (-12)).h = -2 ∧
    clip 32 32 65535 65535 (-65534) (-65534) = ⟨65534, 65534, 0, 0, 1, 1⟩ := by decide
/-- V-COD-02, V-COD-03, V-COD-06, V-DEC-01, V-DEC-08 -/
theorem test_codec : unpack24 0xFF123456 = ⟨0x12, 0x34, 0x56⟩ ∧ unpack24 0x80000000 = ⟨0, 0, 0⟩ ∧
    pack24 ⟨0x12, 0x34, 0x56⟩ = 0x00123456 ∧ decodeTrueColor 0x00123456 = ⟨0x56, 0x34, 0x12⟩ ∧
    decodeBitmap1 0x00000100 = ⟨0, 0, 0⟩ := by decide
/-- V-ENG-02, V-ENG-03, V-ENG-04 -/
theorem test_prologue : performed unbuilt 0x101 Args.zero summary = some (.notConstructed, [0, 0, 0xA02]) ∧
    performed unbuilt 0x000 Args.zero summary = some (.illegalCmd, [0, 0, 0xD02]) ∧
    performed (built 4 4 true false) 0x202 Args.zero summary = some (.diagInvalidArgs, [0, 0, 0x208]) := by decide
/-- V-ENG-08: an overrun -/
theorem test_overrun : (nextOf (applyInput (.write 32 0x00 0x102) (issued unbuilt 0x001 Args.zero))).map
    (fun t => (t.readReg 0x00, t.readReg 0x18, t.latch.cmd)) = some (0x001, 0x005, 0x001) := by decide
/-- V-RST-03: a reset after two of the four pixels of a SET_BUFFER, nine port events in -/
theorem test_reset : (nextOf (applyInput (.reset 9) (issued (built 2 2 false false) 0x104 ⟨2, 0, 0, 0, 0⟩))).map
    (fun t => (t.readReg 0x18, t.readReg 0x34, (events t).drop 4)) =
    some (0, 0, [.fbSet 0 0 ⟨1, 2, 3⟩, .bufRead 2 3, .bufRead 2 4, .bufRead 2 5, .fbSet 1 0 ⟨4, 5, 6⟩,
      .surfRelease]) := by decide

/-! ### Witnesses: for each statement with hypotheses, states and operands that meet them, at the ends of its ranges -/

/-- `exec` answers a next state, at any state. -/
theorem exec_next (i : Instr) (s : State) : ∃ t, exec i s = .next t := ⟨_, exec_eq i s⟩

/-- The engine's turn answers a next state and appends some events, at any state with an issued command. -/
theorem turn_next (s : State) (h : s.latch.valid = true) :
    ∃ t evs, s.engineTurn = .next t ∧ EventsAppended s t evs :=
  ⟨s.carryOut (latchedPlan s), (latchedPlan s).events, by rw [engineTurn_eq, if_pos h], (carryOut_spec s _).2.1⟩

/-- The state in which P2 line 4 is issued. -/
def blit7 : State := issued (built 4 4 true false) 0x305 ⟨7, 0xFFFFFFFF, 0xFFFFFFFF, 0, 0⟩

/-- The state in which P3 line 3 is issued. -/
def copy2 : State := issued (built 2 2 false false) 0x104 ⟨2, 0, 0, 0, 0⟩

theorem witness_DecodeOfEncodeIsTheCommand : (Instr.setPixelP 2147483647 (-2147483648) 0xFFFFFFFF).wellFormed = true ∧
    (Instr.construct 0 4294967295).wellFormed = true := by decide
theorem witness_FormSelectedOnlyByItsWholeWord : decode 0x305 ⟨7, 1, 2, 0, 0⟩ = .form (.setImageOff 7 1 2) := by decide
theorem witness_EveryWordHasItsVerdict :
    (0x00001001#32).toNat / 4096 ≠ 0 ∧ (0xFFFFFFFF#32).toNat / 4096 ≠ 0 ∧ (0x00000100#32).toNat % 256 = 0 ∧
    7 < (0x00000008#32).toNat % 256 ∧ (0x207#32).toNat / 4096 = 0 ∧
    ((0x207#32).toNat % 256, (0x207#32).toNat / 256) ∈ acceptedShapes ∧
    ((0xF01#32).toNat % 256, (0xF01#32).toNat / 256) ∉ acceptedShapes := by decide
theorem witness_UnlistedArgumentsHaveNoEffect :
    let s := issued (built 4 4 false false) 0x102 ⟨0x102030, 0, 0, 0, 0⟩
    ((argumentList ⟨0x102030, 1, 2, 3, 4⟩).take (s.latch.cmd.toNat / 256 % 16) =
      (argumentList s.latch.args).take (s.latch.cmd.toNat / 256 % 16)) ∧ ∃ t, s.perform = .next t :=
  ⟨by decide, _, perform_eq _⟩
theorem witness_AssembledLineIssuesItsCommand :
    (Instr.setPixelRgb (-2147483648) 2147483647 255 0 1).wellFormed = true ∧ unbuilt.busy = false := by decide
theorem witness_StepPerformsTheLatchedCommand : blit7.latch.valid = true ∧
    decode blit7.latch.cmd blit7.latch.args = .form (.setImageOff 7 (-1) (-1)) ∧ blit7.agenda = [] ∧
    (State.withIssued (built 4 4 true false) (0x305, ⟨7, 0xFFFFFFFF, 0xFFFFFFFF, 0, 0⟩)).agenda = [.engine] := by decide
theorem witness_IllegalWordCompletesWithIllegalCmd : (issued unbuilt 0x00001001 Args.zero).latch.valid = true ∧
    (issued unbuilt 0x00001001 Args.zero).latch.cmd.toNat / 4096 ≠ 0 ∧
    (issued unbuilt 0x00000100 Args.zero).latch.cmd.toNat % 256 = 0 ∧
    7 < (issued unbuilt 0x00000008 Args.zero).latch.cmd.toNat % 256 := by decide
/-- The hypotheses of MalformedWordHasNoEvent on the latched word. -/
def malformedIssued (s : State) : Bool :=
  s.latch.valid && decide (s.latch.cmd.toNat / 4096 = 0) && decide (s.latch.cmd.toNat % 256 ≠ 0) &&
    decide (s.latch.cmd.toNat % 256 ≤ 7) &&
    decide ((s.latch.cmd.toNat % 256, s.latch.cmd.toNat / 256) ∉ acceptedShapes)

theorem witness_MalformedWordHasNoEvent : malformedIssued (issued unbuilt 0x00000101 Args.zero) = true ∧
    malformedIssued (issued (built 4 4 true false) 0x00000F06 Args.zero) = true ∧
    malformedIssued (issued unbuilt 0x00000107 Args.zero) = true := by decide
theorem witness_CommandsWithoutSurfaceAreNotConstructed :
    (∀ rows chain, Instr.setBuffer 2 ≠ .construct rows chain) ∧ unbuilt.constructed = false :=
  ⟨by simp, by decide⟩
theorem witness_EveryIssuedCommandCompletesOnce : copy2.latch.valid = true ∧ State.reset.latch.valid = false := by decide
theorem witness_DiagnosticsChangeOnlyTheCode : ∃ t, exec (.setImageOff 13 9 9) (built 4 4 false false) = .next t :=
  exec_next _ _
theorem witness_CmdWriteIssuesOrOverruns : unbuilt.busy = false ∧ copy2.busy = true := by decide
theorem witness_ErrIsStickyUntilCleared :
    (∃ t, (issued unbuilt 0x000 Args.zero).engineTurn = .next t ∧ 8 ≤ t.result.code.toNat) ∧
    (∃ t, copy2.engineTurn = .next t ∧ t.result.code.toNat < 8) ∧
    (∃ t, applyInput (.write 32 0x18 0x2) copy2 = .next t) ∧
    (∃ t, applyInput (.engineWithStatusWrite 0xFFFFFFFF) (issued unbuilt 0x000 Args.zero) = .next t ∧
      8 ≤ t.result.code.toNat) ∧
    (∃ t, applyInput (.engineWithStatusWrite 0xFFFFFFFD) copy2 = .next t ∧ t.result.code.toNat < 8) :=
  ⟨⟨_, rfl, by decide⟩, ⟨_, rfl, by decide⟩, ⟨_, rfl⟩, ⟨_, rfl, by decide⟩, ⟨_, rfl, by decide⟩⟩
theorem witness_ArgWriteIsStoredNotLatched : (4 < 5) ∧ (0x18 ≠ 4 + 4 * 4) := by decide
theorem witness_ReadOnlyAndReservedIgnoreWrites : ∀ off ∈ [0x20, 0x34, 0x38, 0x3C], 0x20 ≤ off ∧ off < 0x40 ∧ off % 4 = 0 := by
  decide
theorem witness_HostReadHasNoSideEffect : (0x3C < 64 ∧ 0x3C % 4 = 0) ∧ (0x00 < 64 ∧ 0x00 % 4 = 0) := by decide
theorem witness_BusErrorExactlyOnIllegalAccess : (16 ≠ 32 ∧ 0x1A % 4 ≠ 0 ∧ 64 ≤ 0x40) ∧ (0x3C % 4 = 0 ∧ 0x3C < 64) := by decide
theorem witness_ResetAbandonsTheCommand : copy2.latch.valid = true ∧
    ∃ t evs, copy2.engineTurn = .next t ∧ EventsAppended copy2 t evs ∧ 9 ≤ evs.length :=
  ⟨rfl, _, (latchedPlan copy2).events, rfl, (carryOut_spec copy2 (latchedPlan copy2)).2.1, by decide⟩
theorem witness_ClipBounds : ((built 4 4 false false).imageClip image7 3 3).degenerate = false ∧
    ((built 4 4 false false).imageClip image7 (-2) (-2)).degenerate = false := by decide
theorem witness_TrueColorAndBitmapDecode : image5.format = 0 ∧ image9.format = 1 ∧ image7.format = 2 := by decide
theorem witness_Palette8Decode : blit7.imageStable 7 = true ∧ image7.palLen ≤ (3#32).toNat % 256 ∧
    (0x102#32).toNat % 256 < image7.palLen := by decide
theorem witness_SetBufferCopiesTheBuffer :
    copy2.inv = true ∧ copy2.constructed = true ∧ copy2.bufferStable 2 = true ∧
    copy2.bufDesc 2 = some [1, 2, 3, 4, 5, 6, 7, 8, 9, 10, 11, 12] ∧
    copy2.stores.buffer 2 = some [1, 2, 3, 4, 5, 6, 7, 8, 9, 10, 11, 12] ∧ 12 = copy2.width * copy2.height * 3 := by decide
theorem witness_SetBufferFailsBeforeAnyWrite : copy2.constructed = true ∧
    copy2.bufDesc 9 = none ∧
    copy2.bufDesc 1 = some [1, 2, 3, 4, 5, 6, 7, 8, 9, 10, 11] ∧ 11 ≠ copy2.width * copy2.height * 3 := by decide
theorem witness_SetImageDrawsTheVisiblePixels : IsSetImage (.setImageOff 7 (-1) (-1)) 7 (-1) (-1) ∧
    blit7.inv = true ∧ blit7.constructed = true ∧ blit7.imgDesc 7 = some image7 ∧ image7.format.toNat ≤ 2 ∧
    (blit7.imageClip image7 (-1) (-1)).degenerate = false ∧ blit7.imageStable 7 = true ∧
    ∀ p ∈ (blit7.imageClip image7 (-1) (-1)).pixels,
      blit7.decodeAt 7 image7 ((blit7.imageClip image7 (-1) (-1)).source p) ≠ .outOfPalette :=
  ⟨Or.inl rfl, by decide, by decide, by decide, by decide, by decide, by decide, by decide⟩
theorem witness_SetImageDrawsTheVisiblePixels_default : IsSetImage (.setImage 9) 9 0 0 ∧
    blit7.imgDesc 9 = some image9 ∧ image9.format.toNat ≤ 2 ∧ (blit7.imageClip image9 0 0).degenerate = false ∧
    ∀ p ∈ (blit7.imageClip image9 0 0).pixels,
      blit7.decodeAt 9 image9 ((blit7.imageClip image9 0 0).source p) ≠ .outOfPalette :=
  ⟨Or.inr ⟨rfl, rfl, rfl⟩, by decide, by decide, by decide, by decide⟩
theorem witness_PaletteRangeStopsTheBlit : IsSetImage (.setImage 11) 11 0 0 ∧
    blit7.inv = true ∧ blit7.constructed = true ∧ blit7.imgDesc 11 = some image11 ∧ image11.format = 2 ∧
    (blit7.imageClip image11 0 0).degenerate = false ∧
    (blit7.imageClip image11 0 0).pixels = [(0, 0), (1, 0)] ++ (0, 1) :: [(1, 1)] ∧
    (∀ q ∈ [(0, 0), (1, 0)], blit7.decodeAt 11 image11 ((blit7.imageClip image11 0 0).source q) ≠ .outOfPalette) ∧
    blit7.decodeAt 11 image11 ((blit7.imageClip image11 0 0).source (0, 1)) = .outOfPalette :=
  ⟨Or.inr ⟨rfl, rfl, rfl⟩, by decide, by decide, by decide, by decide, by decide, by decide, by decide, by decide⟩
theorem witness_DegenerateBlitWritesNothing : IsSetImage (.setImageOff 7 4 0) 7 4 0 ∧ blit7.constructed = true ∧
    blit7.imgDesc 7 = some image7 ∧ (blit7.imageClip image7 4 0).w = 0 ∧ (blit7.imageClip image7 0 (-4)).h = -1 :=
  ⟨Or.inl rfl, by decide, by decide, by decide, by decide⟩
theorem witness_UnsupportedFormatWritesNothing : IsSetImage (.setImage 13) 13 0 0 ∧ blit7.constructed = true ∧
    blit7.imgDesc 13 = some image13 ∧ 3 ≤ image13.format.toNat ∧ 0 < (blit7.imageClip image13 0 0).w ∧
    0 < (blit7.imageClip image13 0 0).h :=
  ⟨Or.inr ⟨rfl, rfl, rfl⟩, by decide, by decide, by decide, by decide, by decide⟩
theorem witness_MissingImageIsBadHandle : IsSetImage (.setImage 12) 12 0 0 ∧ blit7.constructed = true ∧
    blit7.imgDesc 12 = none :=
  ⟨Or.inr ⟨rfl, rfl, rfl⟩, by decide, by decide⟩

/-- `image7` with pixel (0, 0), which the clip of P2 line 4 leaves out, changed to an index outside the palette. -/
def image7' : ImageRec := { image7 with pixels := [200, 1, 2, 1, 2, 0, 2, 0, 1], pixels_length := by decide }

theorem witness_UnseenPixelsDoNotMatter : IsSetImage (.setImageOff 7 (-1) (-1)) 7 (-1) (-1) ∧ blit7.earlier = [] ∧
    blit7.stores.image 7 = some image7 ∧ (⟨[(7, some image7')], []⟩ : Stores).image 7 = some image7' ∧ image7' ≠ image7 ∧
    image7'.width = image7.width ∧ image7'.height = image7.height ∧ image7'.format = image7.format ∧
    image7'.palLen = image7.palLen ∧ image7'.palette = image7.palette ∧
    (∀ p ∈ (blit7.imageClip image7 (-1) (-1)).pixels,
      pixAt image7' ((blit7.imageClip image7 (-1) (-1)).source p).1 ((blit7.imageClip image7 (-1) (-1)).source p).2 =
        pixAt image7 ((blit7.imageClip image7 (-1) (-1)).source p).1 ((blit7.imageClip image7 (-1) (-1)).source p).2) ∧
    ∃ t, exec (.setImageOff 7 (-1) (-1)) blit7 = .next t :=
  ⟨Or.inl rfl, by decide, by decide, by decide, by decide, by decide, by decide, by decide, by decide, by decide, by decide,
    exec_next _ _⟩
theorem witness_PortReadsStayInRange :
    (∃ t, blit7.engineTurn = .next t ∧ EventsAppended blit7 t (latchedPlan blit7).events) ∧
    .pixRead 7 2 2 ∈ (latchedPlan blit7).events ∧ .palRead 7 8 ∈ (latchedPlan blit7).events ∧
    (∃ t, copy2.engineTurn = .next t ∧ EventsAppended copy2 t (latchedPlan copy2).events) ∧
    .bufRead 2 11 ∈ (latchedPlan copy2).events :=
  ⟨⟨_, rfl, (carryOut_spec blit7 (latchedPlan blit7)).2.1⟩, by decide, by decide,
    ⟨_, rfl, (carryOut_spec copy2 (latchedPlan copy2)).2.1⟩, by decide⟩
theorem witness_OnlySetImageWritesClip : (∃ t, exec .clear blit7 = .next t) ∧
    (∀ h dx dy, IsSetImage .clear h dx dy → blit7.imgDesc h = none) ∧ (∃ t, exec (.setImage 12) blit7 = .next t) ∧
    (∀ h dx dy, IsSetImage (.setImage 12) h dx dy → blit7.imgDesc h = none) := by
  refine ⟨exec_next _ _, by simp [IsSetImage], exec_next _ _, ?_⟩
  rintro h dx dy (h₁ | ⟨h₁, _, _⟩)
  · cases h₁
  · cases h₁; decide
theorem witness_ClearBlackensEveryCell : blit7.inv = true ∧ blit7.constructed = true ∧ 3 < blit7.width ∧ 3 < blit7.height := by
  decide
theorem witness_FillColorsEveryCell : (∃ w, Instr.fillP 0xFF0000FF = .fillP w ∧ (⟨0, 0, 255⟩ : RGB) = packedRgb w) ∧
    blit7.inv = true ∧ blit7.constructed = true := ⟨⟨_, rfl, by decide⟩, by decide, by decide⟩
theorem witness_SecondClearOrFillChangesNoCell :
    ∃ t u, exec .clear blit7 = .next t ∧ exec .clear { t with latch := ⟨true, 1, Args.zero, ⟨false, true⟩, 7⟩ } = .next u :=
  ⟨_, _, rfl, rfl⟩
theorem witness_FormsThatMeanTheSame : ∃ t u, exec .clear blit7 = .next t ∧ exec (.fillRgb 0 0 0) blit7 = .next u :=
  ⟨_, _, rfl, rfl⟩
theorem witness_SetPixelSetsOneCell : IsSetPixel (.setPixelP (3 : Nat) (0 : Nat) 0x0A0B0C) (3 : Nat) (0 : Nat) ⟨10, 11, 12⟩ ∧
    IsSetPixel (.setPixelRgb (0 : Nat) (3 : Nat) 1 2 3) (0 : Nat) (3 : Nat) ⟨1, 2, 3⟩ ∧
    blit7.inv = true ∧ blit7.constructed = true ∧ 3 < blit7.width ∧ 3 < blit7.height :=
  ⟨Or.inl ⟨_, rfl, by decide⟩, Or.inr rfl, by decide, by decide, by decide, by decide⟩
theorem witness_OutOfRangePixelIsNotForwarded : IsSetPixel (.setPixelRgb 4 0 1 2 3) 4 0 ⟨1, 2, 3⟩ ∧
    blit7.constructed = true ∧
    ¬((0 : Int) ≤ 4 ∧ (4 : Int) < blit7.width ∧ (0 : Int) ≤ 0 ∧ (0 : Int) < blit7.height) ∧
    ¬((0 : Int) ≤ 0 ∧ (0 : Int) < blit7.width ∧ (0 : Int) ≤ -1 ∧ (-1 : Int) < blit7.height) :=
  ⟨Or.inr rfl, by decide, by decide, by decide⟩
theorem witness_SetPwmBitsOnlyPassesTheDepth : blit7.constructed = true := by decide
theorem witness_ConstructCreatesTheSurface : unbuilt.constructed = false ∧
    unbuilt.surfaceGeometry 4 1 = some (4, 4) ∧ unbuilt.surfaceGeometry 8 8 = some (65535, 65535) ∧ 65535 < 65536 := by decide
theorem witness_FailedConstructChangesNoSurface : blit7.inv = true ∧ blit7.constructed = true ∧ unbuilt.inv = true ∧
    (∀ w h, unbuilt.surfaceGeometry 5 5 = some (w, h) → 65536 ≤ w ∨ 65536 ≤ h) ∧
    (∀ w h, unbuilt.surfaceGeometry 9 9 = some (w, h) → 65536 ≤ w ∨ 65536 ≤ h) ∧
    unbuilt.surfaceGeometry 5 5 = none ∧ unbuilt.surfaceGeometry 9 9 = some (65535, 65536) := by
  refine ⟨by decide, by decide, by decide, fun w h e => ?_, fun w h e => ?_, by decide, by decide⟩
  · have n : unbuilt.surfaceGeometry 5 5 = none := by decide
    rw [n] at e
    cases e
  · have n : unbuilt.surfaceGeometry 9 9 = some (65535, 65536) := by decide
    rw [n] at e
    cases e
    exact Or.inr (by decide)
theorem witness_EveryFbSetIsOnTheSurface :
    (∃ t, blit7.engineTurn = .next t ∧ EventsAppended blit7 t (latchedPlan blit7).events) ∧
    .fbSet 1 1 ⟨10, 20, 30⟩ ∈ (latchedPlan blit7).events :=
  ⟨⟨_, rfl, (carryOut_spec blit7 (latchedPlan blit7)).2.1⟩, by decide⟩
theorem witness_EventsComeFromTheGrantedForm :
    (∃ t, copy2.engineTurn = .next t ∧ EventsAppended copy2 t (latchedPlan copy2).events) ∧
    .bufLen 2 ∈ (latchedPlan copy2).events :=
  ⟨⟨_, rfl, (carryOut_spec copy2 (latchedPlan copy2)).2.1⟩, by decide⟩
theorem witness_WritePortIdleWhileNotConstructed :
    let s := issued unbuilt 0x207 ⟨9, 9, 0, 0, 0⟩
    s.constructed = false ∧ (∃ t, s.engineTurn = .next t ∧ EventsAppended s t (latchedPlan s).events) ∧
    .surfRelease ∈ (latchedPlan s).events ∧ Event.surfRelease.isWriteRequest = true ∧
    ∃ t, applyInput (.reset 0) s = .next t :=
  ⟨by decide, ⟨_, rfl, (carryOut_spec _ _).2.1⟩, by decide, rfl, _, rfl⟩
theorem witness_ViewFollowsTheTrace : blit7.latch.valid = true ∧
    (∃ t, blit7.engineTurn = .next t ∧ EventsAppended blit7 t (latchedPlan blit7).events) ∧
    (∀ e ∈ (latchedPlan (issued blit7 0x202 Args.zero)).events, e.isWriteRequest = false) :=
  ⟨by decide, ⟨_, rfl, (carryOut_spec blit7 (latchedPlan blit7)).2.1⟩, by decide⟩
theorem witness_BlockNeverWritesTheStores : (∃ t, copy2.engineTurn = .next t) ∧ (∃ t, applyInput (.reset 3) copy2 = .next t) ∧
    (∃ t, applyInput (.engineWithStatusWrite 6) copy2 = .next t) := ⟨⟨_, rfl⟩, ⟨_, rfl⟩, ⟨_, rfl⟩⟩
theorem witness_ChangeDuringACommandIsSeen : blit7.latch.valid = true ∧ tabFind 7 blit7.stores.images ≠ some none ∧
    tabFind 2 blit7.stores.buffers ≠ some none ∧ (5 : Word) ≠ 7 := by decide
theorem witness_EveryStepKeepsTheInvariant : copy2.inv = true ∧ ∃ t, step copy2 = .next t := ⟨by decide, _, rfl⟩
theorem witness_EveryStepKeepsCommandsInOrder : copy2.inv = true ∧ copy2.traceOrdered ∧ ∃ t, step copy2 = .next t :=
  ⟨by decide, List.Pairwise.nil, _, rfl⟩
theorem witness_GeometryIsFixedUntilReset : copy2.constructed = true ∧ (∀ n, Input.engine ≠ .reset n) ∧
    ∃ t, applyInput .engine copy2 = .next t := ⟨by decide, by simp, _, rfl⟩
theorem witness_LegalAccessesNeverFault : ∀ e ∈ ({ copy2 with agenda := [.write 32 0x00 1, .poll, .read 32 0x3C,
    .setImage 7 none, .reset 2] } : State).agenda, e.harmless = true := by decide
theorem witness_EveryRunComesToRest : ∀ e ∈ ({ copy2 with agenda := [.poll, .write 32 0x00 1, .write 32 0x00 0x102, .poll] } : State).agenda,
    e.harmless = true := by decide

end Sys2Proof.Tests
end

/-! PROOFS. Every step keeps the invariant: what a command's plan can be, the plans that keep the invariant, and the
actions of the outside world one by one. -/

namespace Sys2Proof.Machine

/-! ### The shape of every command's plan -/

/-- The plan of a completion that writes only the completion registers: OK, a diagnostic or an error (00 R14, R16). -/
inductive Plan.Plain (s : State) : Plan → Prop
  | done (evs : List Event) : Plan.Plain s (Plan.done evs)
  | note (evs : List Event) (c : Result) : Plan.Plain s (Plan.note s evs c)
  | raise (evs : List Event) (e : Result) (info : Word) (he : e.isError = true) : Plan.Plain s (Plan.raise evs e info)

/-- The plan of a CONSTRUCT that succeeds (44 R199). -/
def Plan.created (rows chain w h : Nat) : Plan :=
  { Plan.done [.surfAlloc rows chain (some (w, h))] with geom := some (halves h w) }

theorem Plan.Plain.geom_none {s : State} {p : Plan} (hp : Plan.Plain s p) : p.geom = none := by
  cases hp <;> rfl

theorem Plan.Plain.clip_none {s : State} {p : Plan} (hp : Plan.Plain s p) : p.clip = none := by
  cases hp <;> rfl

/-- FAULT_INFO is 0 unless the completion is an error (10 R33). -/
theorem Plan.Plain.info_zero {s : State} {p : Plan} (hp : Plan.Plain s p) : p.code.isError = true ∨ p.info = 0 := by
  cases hp with
  | done evs => exact Or.inr rfl
  | note evs c => exact Or.inr rfl
  | raise evs e info he => exact Or.inl he

theorem Plan.Plain.onSurface {s : State} {p : Plan} (hp : Plan.Plain s p) : Plan.Plain s (Plan.onSurface s p) := by
  unfold Plan.onSurface
  split
  · exact hp
  · exact .raise _ _ _ rfl

theorem planMalformed_plain (s : State) (op : Nat) : Plan.Plain s (planMalformed s op) := by
  unfold planMalformed
  split
  · exact .raise _ _ _ rfl
  · exact Plan.Plain.onSurface (.note _ _)

theorem planSetPixel_plain (s : State) (x y : Int) (c : RGB) : Plan.Plain s (planSetPixel s x y c) := by
  unfold planSetPixel planOutOfRange
  split_ifs
  · exact .done _
  · exact .raise _ _ _ rfl
  · exact .note _ _

theorem planSetBuffer_plain (s : State) (h : Word) : Plan.Plain s (planSetBuffer s h) := by
  unfold planSetBuffer
  split
  · exact .raise _ _ _ rfl
  · split_ifs
    · exact .raise _ _ _ rfl
    · exact .done _

theorem planVisible_plain (s : State) (h : Word) (img : ImageRec) (c : Clip) :
    Plan.Plain s (planVisible s h img c) := by
  unfold planVisible
  split_ifs
  · dsimp only
    split
    · exact .raise _ _ _ rfl
    · exact .done _
  · exact .note _ _

/-- A SET_IMAGE whose handle names an image writes CLIP_* besides its completion (43 R171). -/
theorem planSetImage_withClip (s : State) (h : Word) (dx dy : Int) (img : ImageRec) (hd : s.imgDesc h = some img) :
    ∃ p src dst size, Plan.Plain s p ∧ planSetImage s h dx dy = p.withClip src dst size := by
  simp only [planSetImage, hd]
  split_ifs
  · exact ⟨_, _, _, _, .note _ _, rfl⟩
  · exact ⟨_, _, _, _, planVisible_plain s h img _, rfl⟩

/-- A SET_IMAGE whose handle names no image only completes (43 R170). -/
theorem planSetImage_plain (s : State) (h : Word) (dx dy : Int) (hd : s.imgDesc h = none) :
    Plan.Plain s (planSetImage s h dx dy) := by
  simp only [planSetImage, hd]
  exact .raise _ _ _ rfl

/-- A CONSTRUCT fails, or creates a surface where none is (44 R198). -/
theorem planConstruct_cases (s : State) (rows chain : Nat) : Plan.Plain s (planConstruct s rows chain) ∨
    (s.constructed = false ∧ ∃ w h, planConstruct s rows chain = Plan.created rows chain w h) := by
  unfold planConstruct
  split_ifs with hc
  · exact Or.inl (.raise _ _ _ rfl)
  · split
    · exact Or.inl (.raise _ _ _ rfl)
    · split_ifs
      · exact Or.inl (.raise _ _ _ rfl)
      · exact Or.inr ⟨by simpa using hc, _, _, rfl⟩

/-- What a SET_IMAGE's plan can be, on a surface and without one. -/
theorem planSetImage_cases (s : State) (h : Word) (dx dy : Int) :
    Plan.Plain s (Plan.onSurface s (planSetImage s h dx dy)) ∨
      ((∃ img, s.imgDesc h = some img) ∧ ∃ p src dst size, Plan.Plain s p ∧
        Plan.onSurface s (planSetImage s h dx dy) = p.withClip src dst size) := by
  cases hd : s.imgDesc h with
  | none => exact Or.inl (planSetImage_plain s h dx dy hd).onSurface
  | some img =>
    cases hc : s.constructed with
    | false => exact Or.inl (onSurface_unconstructed s _ hc ▸ .raise _ _ _ rfl)
    | true =>
      rw [onSurface_constructed s _ hc]
      exact Or.inr ⟨⟨img, rfl⟩, planSetImage_withClip s h dx dy img hd⟩

/-- What a command's plan can be: it only completes; it is a SET_IMAGE that found its image and also writes CLIP_*; or
it is a CONSTRUCT that also writes GEOM. -/
theorem planOf_shape (s : State) (i : Instr) : Plan.Plain s (planOf i s) ∨
    (∃ h dx dy img, IsSetImage i h dx dy ∧ s.imgDesc h = some img ∧
      ∃ p src dst size, Plan.Plain s p ∧ planOf i s = p.withClip src dst size) ∨
    (∃ rows chain w h, i = .construct rows chain ∧ s.constructed = false ∧
      planOf i s = Plan.created rows chain w h) := by
  have image : ∀ h dx dy, IsSetImage i h dx dy → Plan.Plain s (planOf i s) ∨
      ∃ h dx dy img, IsSetImage i h dx dy ∧ s.imgDesc h = some img ∧
        ∃ p src dst size, Plan.Plain s p ∧ planOf i s = p.withClip src dst size := by
    intro h dx dy hi
    rw [planOf_isSetImage hi s]
    exact (planSetImage_cases s h dx dy).imp_right fun ⟨⟨img, hd⟩, hp⟩ => ⟨h, dx, dy, img, hi, hd, hp⟩
  cases i with
  | clear => exact Or.inl (Plan.Plain.done _).onSurface
  | fillP c => exact Or.inl (Plan.Plain.done _).onSurface
  | fillRgb r g b => exact Or.inl (Plan.Plain.done _).onSurface
  | setPixelP x y c => exact Or.inl (planSetPixel_plain s x y _).onSurface
  | setPixelRgb x y r g b => exact Or.inl (planSetPixel_plain s x y _).onSurface
  | setBuffer h => exact Or.inl (planSetBuffer_plain s h).onSurface
  | setImage h => exact (image h 0 0 (Or.inr ⟨rfl, rfl, rfl⟩)).imp_right Or.inl
  | setImageOff h dx dy => exact (image h dx dy (Or.inl rfl)).imp_right Or.inl
  | setPwmBits n => exact Or.inl (Plan.Plain.done _).onSurface
  | construct rows chain =>
    exact (planConstruct_cases s rows chain).imp_right fun ⟨hc, w, h, hp⟩ =>
      Or.inr ⟨rows, chain, w, h, rfl, hc, hp⟩

/-! ### A plan that keeps the invariant -/

/-- What a plan must satisfy for its carrying out to keep the invariant: FAULT_INFO 0 unless the completion is an error;
every write on the surface; a view afterwards exactly while a surface is constructed; and with a new GEOM a new view. -/
structure Plan.Sound (s : State) (p : Plan) : Prop where
  info : p.code.isError = true ∨ p.info = 0
  inside : FbSetsInside s.width s.height p.events
  view : (p.events.foldl (viewAfter s.latch.index) s.view).isSome = (s.constructed || p.geom.isSome)
  fresh : p.geom = none ∨ p.events.foldl (viewAfter s.latch.index) s.view = some (View.fresh s.latch.index)

/-- The event creates or releases the surface. -/
def Event.changesSurface (e : Event) : Prop := (∃ rows chain a, e = .surfAlloc rows chain a) ∨ e = .surfRelease

/-- There is a view after an event exactly if there was one before, unless the event creates or releases the surface. -/
theorem viewAfter_isSome (d : Nat) (ov : Option View) (e : Event) (he : ¬ e.changesSurface) :
    (viewAfter d ov e).isSome = ov.isSome := by
  cases e with
  | fbSet x y c => exact Option.isSome_map
  | fbFill c => exact Option.isSome_map
  | fbClear => exact Option.isSome_map
  | surfAlloc rows chain a => exact absurd (Or.inl ⟨_, _, _, rfl⟩) he
  | surfRelease => exact absurd (Or.inr rfl) he
  | fbDepth n => rfl
  | imgDesc h => rfl
  | pixRead h x y => rfl
  | palRead h i => rfl
  | bufLen h => rfl
  | bufRead h i => rfl

theorem viewAfter_fold_isSome (d : Nat) (evs : List Event) (ov : Option View)
    (he : ∀ e ∈ evs, ¬ e.changesSurface) : (evs.foldl (viewAfter d) ov).isSome = ov.isSome := by
  induction evs generalizing ov with
  | nil => rfl
  | cons e evs ih =>
    rw [List.foldl_cons, ih _ fun e' h' => he e' (List.mem_cons_of_mem _ h'), viewAfter_isSome d ov e (he e (by simp))]

/-- Only CONSTRUCT's events create or release the surface (45 R212). -/
theorem changesSurface_construct {e : Event} {i : Instr} (ha : e.allowedFor i = true) (he : e.changesSurface) :
    ∃ rows chain, i = .construct rows chain := by
  cases i with
  | construct rows chain => exact ⟨rows, chain, rfl⟩
  | _ => rcases he with ⟨_, _, _, rfl⟩ | rfl <;> cases ha

/-- A plan without events that only completes. -/
theorem Plan.Plain.sound_of_no_events {s : State} {p : Plan} (hp : Plan.Plain s p) (he : p.events = [])
    (hv : s.view.isSome = s.constructed) : Plan.Sound s p where
  info := hp.info_zero
  inside := by simp [he, FbSetsInside]
  view := by simp [he, hp.geom_none, hv]
  fresh := Or.inl hp.geom_none

/-- There is a view after a CONSTRUCT exactly if there was a surface or the CONSTRUCT created one (44 R198, 10 R40). -/
theorem planConstruct_view (s : State) (rows chain d : Nat) (ov : Option View) (hv : ov.isSome = s.constructed) :
    ((planConstruct s rows chain).events.foldl (viewAfter d) ov).isSome =
      (s.constructed || (planConstruct s rows chain).geom.isSome) := by
  unfold planConstruct
  split_ifs with hc
  · simpa [Plan.raise] using hv
  · split
    · simpa [Plan.raise, viewAfter] using hv
    · split_ifs
      · simp [Plan.raise, viewAfter, hc]
      · simp [Plan.done, viewAfter]

/-- There is a view after a command exactly if there was a surface or the command created one (10 R40). -/
theorem planOf_view (s : State) (i : Instr) (d : Nat) (ov : Option View) (hv : ov.isSome = s.constructed) :
    ((planOf i s).events.foldl (viewAfter d) ov).isSome = (s.constructed || (planOf i s).geom.isSome) := by
  by_cases hc : ∃ rows chain, i = .construct rows chain
  · obtain ⟨rows, chain, rfl⟩ := hc
    exact planConstruct_view s rows chain d ov hv
  · have hg : (planOf i s).geom = none := by
      rcases planOf_shape s i with hp | ⟨_, _, _, _, _, _, p, _, _, _, hp, he⟩ | ⟨rows, chain, _, _, hi, _⟩
      · exact hp.geom_none
      · exact he ▸ hp.geom_none
      · exact absurd ⟨rows, chain, hi⟩ hc
    rw [viewAfter_fold_isSome d _ _ fun e he hs => hc (changesSurface_construct (planOf_events s i e he).1 hs), hv, hg]
    simp

theorem planOf_sound (s : State) (i : Instr) (hv : s.view.isSome = s.constructed) : Plan.Sound s (planOf i s) where
  info := by
    rcases planOf_shape s i with hp | ⟨_, _, _, _, _, _, p, _, _, _, hp, he⟩ | ⟨_, _, _, _, _, _, he⟩
    · exact hp.info_zero
    · exact he ▸ hp.info_zero
    · exact he ▸ Or.inr rfl
  inside := fun x y c hm => (planOf_events s i _ hm).2.1 x y c rfl
  view := planOf_view s i _ _ hv
  fresh := by
    rcases planOf_shape s i with hp | ⟨_, _, _, _, _, _, p, _, _, _, hp, he⟩ | ⟨_, _, _, _, _, _, he⟩
    · exact Or.inl hp.geom_none
    · exact Or.inl (he ▸ hp.geom_none)
    · exact he ▸ Or.inr rfl

/-- The latched command's plan is sound, whatever the latched word (40 R123). -/
theorem latchedPlan_sound (s : State) (hv : s.view.isSome = s.constructed) : Plan.Sound s (latchedPlan s) := by
  unfold latchedPlan
  cases decode s.latch.cmd s.latch.args with
  | illegal => exact (Plan.Plain.raise _ _ _ rfl).sound_of_no_events rfl hv
  | malformed op => exact (planMalformed_plain s op).sound_of_no_events (malformed_events s op) hv
  | form i => exact planOf_sound s i hv

theorem viewSound_iff (s : State) : s.viewSound = true ↔
    ∀ v, s.view = some v → v.wf = true ∧ v.inside s.width s.height = true := by
  unfold State.viewSound
  cases s.view <;> simp

/-- The view after a sound plan is canonical and inside the surface. -/
theorem carryOut_viewSound {s : State} {p : Plan} (hs : s.viewSound = true) (hp : Plan.Sound s p) :
    (s.carryOut p).viewSound = true := by
  refine (viewSound_iff _).2 fun v hv => ?_
  rw [carryOut_view] at hv
  rcases hp.fresh with hg | hf
  · have hkept : (s.carryOut p).geom = s.geom := by simp [hg]
    simp only [State.width, State.height, hkept]
    exact viewAfter_fold_sound _ _ _ (width_lt s).le _ _ ((viewSound_iff s).1 hs) hp.inside v hv
  · obtain rfl := Option.some.inj (hf.symm.trans hv)
    exact ⟨rfl, rfl⟩

/-- The entries of a command in progress are below the next command's index, and so are all before them. -/
theorem appended_tagBelow {s : State} (hi : s.inv = true) (hv : s.latch.valid = true) (evs : List Event) :
    ∀ e ∈ s.trace ++ evs.map (fun e => ({ command := some s.latch.index, event := e } : TraceEntry)),
      e.tagBelow s.issued = true := by
  obtain ⟨-, -, -, -, hidx, htags, -⟩ := (inv_iff s).1 hi
  have hlt : s.latch.index < s.issued := by simpa [hv] using hidx
  intro e he
  rcases List.mem_append.1 he with he | he
  · have hb := htags e he
    simp only [State.tagBound, hv, if_true] at hb
    exact tagBelow_mono hlt.le e hb
  · obtain ⟨ev, -, rfl⟩ := List.mem_map.1 he
    exact decide_eq_true hlt

/-- Carrying out a sound plan of the command in progress keeps the invariant. -/
theorem carryOut_inv {s : State} {p : Plan} (hi : s.inv = true) (hv : s.latch.valid = true) (hp : Plan.Sound s p) :
    (s.carryOut p).inv = true := by
  obtain ⟨-, hgeom, hsound, -, -, -, hstores⟩ := (inv_iff s).1 hi
  refine (inv_iff _).2 ⟨by simpa using hp.view, ?_, carryOut_viewSound hsound hp, by simpa using hp.info,
    Or.inl (by simp), ?_, by simpa using hstores⟩
  · cases hg : p.geom with
    | none => simpa [hg] using hgeom
    | some g => exact Or.inl (by simp [hg])
  · simpa [State.tagBound] using appended_tagBelow hi hv p.events

/-! ### Every step keeps the invariant -/

theorem engineTurn_inv {s t : State} (hi : s.inv = true) (h : s.engineTurn = .next t) : t.inv = true := by
  rw [engineTurn_eq] at h
  cases h
  split_ifs with hv
  · exact carryOut_inv hi hv (latchedPlan_sound s ((inv_iff s).1 hi).1)
  · exact hi

theorem writeStatus_inv {s : State} (hi : s.inv = true) (v : Word) : (s.writeStatus v).inv = true :=
  inv_congr hi rfl rfl rfl rfl rfl rfl rfl rfl rfl

theorem pollStatus_inv {s : State} (hi : s.inv = true) : s.pollStatus.inv = true := by
  unfold State.pollStatus
  split_ifs <;> exact inv_congr hi rfl rfl rfl rfl rfl rfl rfl rfl rfl

/-- The index an issue gives out is above every tag on the trace (20 R74). -/
theorem issue_inv {s : State} (hi : s.inv = true) (hb : s.busy = false) (w : Word) : (s.issue w).inv = true := by
  obtain ⟨hview, hgeom, hsound, hinfo, -, htags, hstores⟩ := (inv_iff s).1 hi
  have hv : s.latch.valid = false := hb
  refine (inv_iff _).2 ⟨hview, hgeom, hsound, hinfo, Or.inr (by simp), ?_, hstores⟩
  simpa [State.tagBound, hv] using htags

theorem writeCmd_inv {s : State} (hi : s.inv = true) (w : Word) : (s.writeCmd w).inv = true := by
  unfold State.writeCmd
  split_ifs with hb
  · exact inv_congr hi rfl rfl rfl rfl rfl rfl rfl rfl rfl
  · exact issue_inv hi (by simpa using hb) w

/-- A host write at another offset than CMD's changes only registers the host writes (10 R22). -/
theorem writeReg_not_cmd (s : State) (off : Nat) (v : Word) (h : off ≠ 0) :
    ∃ a e o c, s.writeReg off v = { s with args := a, err := e, ovr := o, ctrl := c } := by
  unfold State.writeReg
  split
  · exact absurd rfl h
  all_goals exact ⟨_, _, _, _, rfl⟩

theorem writeReg_inv {s : State} (hi : s.inv = true) (off : Nat) (v : Word) : (s.writeReg off v).inv = true := by
  by_cases h : off = 0
  · subst h
    exact writeCmd_inv hi v
  · obtain ⟨a, e, o, c, hw⟩ := writeReg_not_cmd s off v h
    rw [hw]
    exact inv_congr hi rfl rfl rfl rfl rfl rfl rfl rfl rfl

/-- A change of the stores to canonical ones keeps the invariant. -/
theorem changeStores_inv {s : State} (hi : s.inv = true) (u : Stores) (hu : u.wf = true) :
    (s.changeStores u).inv = true := by
  obtain ⟨hview, hgeom, hsound, hinfo, hidx, htags, -⟩ := (inv_iff s).1 hi
  exact (inv_iff _).2 ⟨hview, hgeom, hsound, hinfo, hidx, htags, hu⟩

/-- The tags after a reset: an abandoned command's events are its own, and a reset's SurfRelease has none (70 R251). -/
theorem resetBlock_tagBelow {s : State} (hi : s.inv = true) (n : Nat) :
    ∀ e ∈ (s.resetBlock n).trace, e.tagBelow s.issued = true := by
  intro e he
  rw [resetBlock_trace, List.mem_append] at he
  rcases he with he | he
  · cases hv : s.latch.valid with
    | true =>
      rw [pendingEvents_eq, if_pos hv, ← List.map_take] at he
      exact appended_tagBelow hi hv _ e he
    | false =>
      obtain ⟨-, -, -, -, -, htags, -⟩ := (inv_iff s).1 hi
      simp only [pendingEvents_eq, hv, Bool.false_eq_true, if_false, List.take_nil, List.append_nil] at he
      simpa [State.tagBound, hv] using htags e he
  · split_ifs at he
    · rw [List.mem_singleton.1 he]
      rfl
    · cases he

theorem resetBlock_inv {s : State} (hi : s.inv = true) (n : Nat) : (s.resetBlock n).inv = true := by
  obtain ⟨-, -, -, -, -, -, hstores⟩ := (inv_iff s).1 hi
  exact (inv_iff _).2 ⟨rfl, Or.inr rfl, rfl, Or.inr rfl, Or.inl rfl, resetBlock_tagBelow hi n, hstores⟩

/-- Every action of the outside world, and the engine's turn, keeps the invariant. -/
theorem applyInput_inv {s t : State} (hi : s.inv = true) (e : Input) (h : applyInput e s = .next t) : t.inv = true := by
  obtain ⟨-, -, -, -, -, -, hstores⟩ := (inv_iff s).1 hi
  cases e with
  | read width off =>
    simp only [applyInput] at h
    split_ifs at h
    cases h
    exact inv_congr hi rfl rfl rfl rfl rfl rfl rfl rfl rfl
  | write width off v =>
    simp only [applyInput] at h
    split_ifs at h
    cases h
    exact writeReg_inv hi off v
  | poll =>
    cases h
    exact pollStatus_inv hi
  | engine => exact engineTurn_inv hi h
  | engineWithStatusWrite v => exact engineTurn_inv (writeStatus_inv hi v) h
  | reset n =>
    cases h
    exact resetBlock_inv hi n
  | setImage h' r =>
    cases h
    exact changeStores_inv hi _ (setImage_wf s h' r hstores)
  | setBuffer h' b =>
    cases h
    exact changeStores_inv hi _ (setBuffer_wf s h' b hstores)
  | foreignSurfaceWrite x y c => cases h

/-- Settles O55: every plan of a command is sound, and every other action keeps the invariant's fields or its parts. -/
theorem everyStepKeepsTheInvariant : Obligations.EveryStepKeepsTheInvariant := by
  intro s t hi h
  cases ha : s.agenda with
  | nil => exact engineTurn_inv hi (step_idle s ha ▸ h)
  | cons e rest =>
    rw [step_cons s e rest ha] at h
    have hrest : State.inv { s with agenda := rest } = true := inv_congr hi rfl rfl rfl rfl rfl rfl rfl rfl rfl
    exact applyInput_inv hrest e h

end Sys2Proof.Machine

/-! PROOFS. The registers: who writes CLIP_*, ERR and the STATUS word, what a host write stores, the power-on state. -/

namespace Sys2Proof.Machine

/-- Settles O39: the plan of such a command only completes, or is a CONSTRUCT's, and so names no clip. -/
theorem onlySetImageWritesClip : Obligations.OnlySetImageWritesClip := by
  intro s t i h hnone
  rw [exec_eq] at h
  cases h
  obtain ⟨-, -, -, hkept, -⟩ := carryOut_spec s (planOf i s)
  refine hkept ?_
  rcases planOf_shape s i with hp | ⟨h, dx, dy, img, hi, hd, -⟩ | ⟨_, _, _, _, _, _, he⟩
  · exact hp.clip_none
  · rw [hnone h dx dy hi] at hd
    cases hd
  · exact he ▸ rfl

/-! ### The flags and the STATUS word -/

/-- An error is a code of 0x8 or above (60 R224). -/
theorem isError_iff (r : Result) : r.isError = true ↔ 8 ≤ r.code.toNat := decide_eq_true_iff

/-- A flag that a set bit of the written word clears. -/
theorem and_not_getLsbD (b : Bool) (v : Word) (i : Nat) :
    (b && !v.getLsbD i) = if v.toNat / 2 ^ i % 2 = 1 then false else b := by
  rw [getLsbD_nat]
  split_ifs with h <;> simp [h]

/-- ERR after a completion, by the code it completes with (10 R27). -/
theorem turn_err {s t : State} (hv : s.latch.valid = true) (h : s.engineTurn = .next t) :
    (8 ≤ t.result.code.toNat → t.err = true) ∧ (t.result.code.toNat < 8 → t.err = s.err) := by
  rw [engineTurn_eq, if_pos hv] at h
  cases h
  rw [carryOut_result, carryOut_err]
  refine ⟨fun he => ?_, fun he => ?_⟩
  · rw [(isError_iff _).2 he, Bool.or_true]
  · have hno : (latchedPlan s).code.isError = false := by
      rw [Bool.eq_false_iff, Ne, isError_iff]
      omega
    rw [hno, Bool.or_false]

/-- A legal host write stores by the offset's rule (20 R69). -/
theorem applyInput_write (s : State) (off : Nat) (v : Word) (ha : off % 4 = 0) (hw : off < 64) :
    applyInput (.write 32 off v) s = .next (s.writeReg off v) :=
  if_pos ((accessLegal_iff 32 off).2 ⟨rfl, ha, hw⟩)

/-- Settles O14: ERR after a completion is `turn_err`; a STATUS write in the same step comes before the
completion. -/
theorem errIsStickyUntilCleared : Obligations.ErrIsStickyUntilCleared := by
  refine ⟨fun s t hv h => turn_err hv h, fun s t v h => ?_, fun s t v hv h => ?_⟩
  · cases h
    exact and_not_getLsbD s.err v 1
  · obtain ⟨hset, hkept⟩ := turn_err (s := s.writeStatus v) hv h
    exact ⟨hset, fun hc => (hkept hc).trans (and_not_getLsbD s.err v 1)⟩

/-- Settles O15. -/
theorem statusWriteClearsOnlyItsFlags : Obligations.StatusWriteClearsOnlyItsFlags := by
  intro s v
  have herr : (s.writeStatus v).err = if v.toNat / 2 % 2 = 1 then false else s.err := and_not_getLsbD s.err v 1
  have hovr : (s.writeStatus v).ovr = if v.toNat / 4 % 2 = 1 then false else s.ovr := and_not_getLsbD s.ovr v 2
  rw [applyInput_write s 0x18 v rfl (by decide), ← herr, ← hovr]
  rfl

/-- Settles O16: each field of the concatenation stands at its power of two. -/
theorem statusWordLayout : Obligations.StatusWordLayout := by
  intro s
  show s.statusWord.toNat = _
  simp only [State.statusWord, append_toNat, BitVec.toNat_ofBool, BitVec.toNat_ofNat]
  omega

/-! ### The register window -/

/-- ARG`k` reads as the argument word `k` (10 R24). -/
theorem readReg_arg (s : State) (k : Nat) (hk : k < 5) :
    (argumentList s.args)[k]? = some (s.readReg (4 + 4 * k)) := by
  interval_cases k <;> rfl

/-- A register reads the same under other argument words, unless it is an ARG register whose word differs. -/
theorem readReg_withArgs (s : State) (a : Args) (off : Nat)
    (h : ∀ k < 5, off = 4 + 4 * k → (argumentList a)[k]? = (argumentList s.args)[k]?) :
    State.readReg { s with args := a } off = s.readReg off := by
  by_cases hk : ∃ k < 5, off = 4 + 4 * k
  · obtain ⟨k, hk, rfl⟩ := hk
    have heq := h k hk rfl
    rw [readReg_arg s k hk, readReg_arg { s with args := a } k hk] at heq
    exact Option.some.inj heq
  · have hne : ∀ k < 5, off ≠ 4 + 4 * k := fun k hlt he => hk ⟨k, hlt, he⟩
    have h0 := hne 0; have h1 := hne 1; have h2 := hne 2; have h3 := hne 3; have h4 := hne 4
    unfold State.readReg
    split <;> first | rfl | omega

/-- A write to ARG`k` replaces the argument word `k` and nothing else (10 R24). -/
theorem writeReg_arg (s : State) (k : Nat) (v : Word) (hk : k < 5) :
    ∃ a, s.writeReg (4 + 4 * k) v = { s with args := a } ∧ argumentList a = (argumentList s.args).set k v := by
  interval_cases k <;> exact ⟨_, rfl, rfl⟩

/-- Settles O17. -/
theorem argWriteIsStoredNotLatched : Obligations.ArgWriteIsStoredNotLatched := by
  intro s k v hk
  obtain ⟨a, hw, ha⟩ := writeReg_arg s k v hk
  refine ⟨{ s with args := a }, ?_, ?_, fun off hoff => ?_, rfl⟩
  · rw [applyInput_write s _ v (by omega) (by omega), hw]
  · have hread := readReg_arg { s with args := a } k hk
    rw [ha, List.getElem?_set_self hk] at hread
    exact (Option.some.inj hread).symm
  · refine readReg_withArgs s a off fun j _ hj => ?_
    rw [ha, List.getElem?_set_ne (by omega)]

/-- The CTRL word that a write stores: its two low bits (10 R31). -/
theorem ctrl_ofWord_word (v : Word) : (Ctrl.ofWord v).word.toNat = v.toNat % 4 := by
  simp only [Ctrl.word, Ctrl.ofWord, append_toNat, BitVec.toNat_ofBool, BitVec.toNat_ofNat, BitVec.getLsbD,
    Nat.toNat_testBit]
  omega

/-- Settles O18. -/
theorem ctrlWriteStoresTwoBits : Obligations.CtrlWriteStoresTwoBits := by
  intro s v
  refine ⟨_, applyInput_write s 0x1C v rfl (by decide), ctrl_ofWord_word v, ?_, rfl⟩
  show v.getLsbD 0 = _
  rw [getLsbD_nat, pow_zero, Nat.div_one, beq_eq_decide]

/-- A write above CTRL changes nothing: the registers there are read-only and the offsets reserved (10 R45). -/
theorem writeReg_readOnly (s : State) (off : Nat) (v : Word) (h : 0x20 ≤ off) : s.writeReg off v = s := by
  unfold State.writeReg
  split <;> first | rfl | omega

/-- Settles O19. -/
theorem readOnlyAndReservedIgnoreWrites : Obligations.ReadOnlyAndReservedIgnoreWrites := by
  intro s off v hlo hhi hal
  refine ⟨?_, ?_⟩
  · rw [applyInput_write s off v hal hhi, writeReg_readOnly s off v hlo]
  · rintro (rfl | rfl) <;> rfl

/-! ### The power-on state -/

/-- Settles O24: every register's field is 0 in `State.reset`. -/
theorem powerOnStateIsAllZero : Obligations.PowerOnStateIsAllZero := by
  refine ⟨fun off => ?_, rfl, rfl, rfl⟩
  unfold State.readReg
  split <;> rfl

/-- Settles O56. -/
theorem powerOnStateMeetsTheInvariant : Obligations.PowerOnStateMeetsTheInvariant := by
  obtain ⟨hview, hstores⟩ := reset_wf
  refine ⟨(inv_iff _).2 ⟨rfl, Or.inr rfl, hview, Or.inr rfl, Or.inl rfl, ?_, hstores⟩, List.Pairwise.nil⟩
  intro e he
  cases he

end Sys2Proof.Machine

/-! PROOFS. The memory family: the order of the trace, the ranges of the port reads, the stores the block only reads, and
the host's accesses to the register window. -/

namespace Sys2Proof.Machine

/-! ### What a step puts onto the trace -/

/-- The entry has no index, or that of the command in progress (45 R214). -/
def TraceEntry.OfLatched (s : State) (e : TraceEntry) : Prop :=
  ∀ k, e.command = some k → s.latch.valid = true ∧ k = s.latch.index

/-- From `s` to `t` the trace only grew, by entries of the command in progress and entries without an index. -/
def TraceContinued (s t : State) : Prop := ∃ new, t.trace = s.trace ++ new ∧ ∀ e ∈ new, e.OfLatched s

theorem TraceContinued.of_eq {s t : State} (h : t.trace = s.trace) : TraceContinued s t :=
  ⟨[], by simp [h], by simp⟩

/-- The tagged events of a command in progress are its own. -/
theorem ofLatched_of_mem_tagged {s : State} (hv : s.latch.valid = true) (evs : List Event) :
    ∀ e ∈ evs.map (fun e => ({ command := some s.latch.index, event := e } : TraceEntry)), e.OfLatched s := by
  intro e he k hk
  obtain ⟨ev, -, rfl⟩ := List.mem_map.1 he
  exact ⟨hv, (Option.some.inj hk).symm⟩

theorem engineTurn_trace {s t : State} (h : s.engineTurn = .next t) : TraceContinued s t := by
  rw [engineTurn_eq] at h
  cases h
  split_ifs with hv
  · exact ⟨_, carryOut_trace s _, ofLatched_of_mem_tagged hv _⟩
  · exact .of_eq rfl

/-- The events still to come of a command in progress are its own; an idle block has none. -/
theorem ofLatched_of_mem_pendingEvents (s : State) : ∀ e ∈ s.pendingEvents, e.OfLatched s := by
  intro e he
  rw [pendingEvents_eq] at he
  split_ifs at he with hv
  · exact ofLatched_of_mem_tagged hv _ e he
  · cases he

/-- A reset adds events of the abandoned command and a SurfRelease without an index (70 R250, R251). -/
theorem resetBlock_traceContinued (s : State) (n : Nat) : TraceContinued s (s.resetBlock n) := by
  refine ⟨_, (resetBlock_trace s n).trans (List.append_assoc ..), fun e he => ?_⟩
  rcases List.mem_append.1 he with he | he
  · exact ofLatched_of_mem_pendingEvents s e (List.mem_of_mem_take he)
  · split_ifs at he
    · rw [List.mem_singleton.1 he]
      intro k hk
      cases hk
    · cases he

theorem pollStatus_trace (s : State) : s.pollStatus.trace = s.trace := by
  unfold State.pollStatus
  split_ifs <;> rfl

/-- What every action of the outside world, and the engine's turn, puts onto the trace. -/
theorem applyInput_trace {s t : State} (e : Input) (h : applyInput e s = .next t) : TraceContinued s t := by
  cases e with
  | read width off =>
    simp only [applyInput] at h
    split_ifs at h
    cases h
    exact .of_eq (hostRead_trace s off)
  | write width off v =>
    simp only [applyInput] at h
    split_ifs at h
    cases h
    exact .of_eq (writeReg_trace s off v)
  | poll =>
    cases h
    exact .of_eq (pollStatus_trace s)
  | engine => exact engineTurn_trace h
  | engineWithStatusWrite v => exact engineTurn_trace (s := s.writeStatus v) h
  | reset n =>
    cases h
    exact resetBlock_traceContinued s n
  | setImage h' r =>
    cases h
    exact .of_eq (changeStores_trace s _)
  | setBuffer h' b =>
    cases h
    exact .of_eq (changeStores_trace s _)
  | foreignSurfaceWrite x y c => cases h

theorem step_trace {s t : State} (h : step s = .next t) : TraceContinued s t := by
  cases ha : s.agenda with
  | nil => exact engineTurn_trace (step_idle s ha ▸ h)
  | cons e rest => exact applyInput_trace (s := { s with agenda := rest }) e (step_cons s e rest ha ▸ h)

/-! ### The order of the trace -/

/-- Every index on the trace is below the latched command's, while one is in progress (20 R74). -/
theorem tag_lt_latched {s : State} (hi : s.inv = true) (hv : s.latch.valid = true) {k : Nat}
    (hk : k ∈ s.trace.filterMap TraceEntry.command) : k < s.latch.index := by
  obtain ⟨-, -, -, -, -, htags, -⟩ := (inv_iff s).1 hi
  obtain ⟨e, he, hek⟩ := List.mem_filterMap.1 hk
  simpa [TraceEntry.tagBelow, hek, State.tagBound, hv] using htags e he

/-- The new entries have one index, which no older entry reaches. -/
theorem TraceContinued.ordered {s t : State} (h : TraceContinued s t) (hi : s.inv = true) (ho : s.traceOrdered) :
    t.traceOrdered := by
  obtain ⟨new, htrace, hnew⟩ := h
  have hlatched : ∀ k ∈ new.filterMap TraceEntry.command, s.latch.valid = true ∧ k = s.latch.index := by
    intro k hk
    obtain ⟨e, he, hek⟩ := List.mem_filterMap.1 hk
    exact hnew e he k hek
  unfold State.traceOrdered
  rw [htrace, List.filterMap_append, List.pairwise_append]
  refine ⟨ho, List.pairwise_of_forall_mem_list ?_, ?_⟩
  · intro a ha b hb
    obtain ⟨-, rfl⟩ := hlatched a ha
    obtain ⟨-, rfl⟩ := hlatched b hb
    exact le_rfl
  · intro a ha b hb
    obtain ⟨hv, rfl⟩ := hlatched b hb
    exact (tag_lt_latched hi hv ha).le

/-- Settles O57: a step adds only entries of the command in progress, whose index no older entry reaches. -/
theorem everyStepKeepsCommandsInOrder : Obligations.EveryStepKeepsCommandsInOrder :=
  fun _ _ hi ho h => (step_trace h).ordered hi ho

/-! ### The external stores -/

/-- Settles O38: the events are those of the latched form's plan, each of them in range by `EventOk`. -/
theorem portReadsStayInRange : Obligations.PortReadsStayInRange := by
  intro s t evs h hturn hevs
  have inRange : ∀ e ∈ evs, ∃ i, EventOk s i e := by
    intro e he
    rcases turn_cases hturn hevs with ⟨-, -, rfl⟩ | ⟨-, -, rfl⟩
    · obtain ⟨i, -, -, hok⟩ := latched_events s e he
      exact ⟨i, hok⟩
    · cases he
  refine ⟨fun x y hm => ?_, fun k hm => ?_, fun k hm => ?_⟩
  all_goals obtain ⟨i, -, -, hpix, hpal, hbuf⟩ := inRange _ hm
  · exact hpix h x y rfl
  · exact hpal h k rfl
  · exact hbuf h k rfl

theorem engineTurn_stores {s t : State} (h : s.engineTurn = .next t) : t.stores = s.stores := by
  rw [engineTurn_eq] at h
  cases h
  split_ifs
  · exact carryOut_stores s _
  · rfl

/-- Settles O53: carrying a plan out, a STATUS write and a reset each keep the stores. -/
theorem blockNeverWritesTheStores : Obligations.BlockNeverWritesTheStores := by
  rintro s t (h | ⟨n, h⟩ | ⟨v, h⟩)
  · exact engineTurn_stores h
  · cases h
    exact resetBlock_stores s n
  · exact (engineTurn_stores (s := s.writeStatus v) h).trans (writeStatus_stores s v)

/-! ### The host's accesses -/

/-- A step of a state with legal pending actions has a next state, whose pending actions are legal. -/
theorem step_harmless (s : State) (ha : ∀ e ∈ s.agenda, e.harmless = true) :
    ∃ t, step s = .next t ∧ ∀ e ∈ t.agenda, e.harmless = true := by
  cases hag : s.agenda with
  | nil =>
    have hturn := engineTurn_eq s
    exact ⟨_, (step_idle s hag).trans hturn, (turn_agenda hturn).1 ▸ ha⟩
  | cons e rest =>
    rw [hag, List.forall_mem_cons] at ha
    obtain ⟨he, hrest⟩ := ha
    obtain ⟨t, ht, hkept | ⟨-, -, -, hpoll⟩⟩ := applyInput_next { s with agenda := rest } e he
    · exact ⟨t, (step_cons s e rest hag).trans ht, hkept ▸ hrest⟩
    · refine ⟨t, (step_cons s e rest hag).trans ht, ?_⟩
      rw [hpoll, List.forall_mem_cons, List.forall_mem_cons]
      exact ⟨rfl, rfl, hrest⟩

/-- Settles O59, by induction on the number of steps. -/
theorem legalAccessesNeverFault : Obligations.LegalAccessesNeverFault := by
  intro k
  induction k with
  | zero => exact fun s _ => ⟨s, rfl⟩
  | succ k ih =>
    intro s ha
    obtain ⟨t, hstep, ht⟩ := step_harmless s ha
    unfold SafeRun
    rw [run_succ hstep]
    exact ih t ht

/-- A legal host read records the register's value (20 R60). -/
theorem applyInput_read (s : State) (off : Nat) (ha : off % 4 = 0) (hw : off < 64) :
    applyInput (.read 32 off) s = .next (s.hostRead off) :=
  if_pos ((accessLegal_iff 32 off).2 ⟨rfl, ha, hw⟩)

/-- Settles O20. -/
theorem hostReadHasNoSideEffect : Obligations.HostReadHasNoSideEffect :=
  fun s off hw ha => applyInput_read s off ha hw

/-- Settles O21: the fault's condition is the negation of `accessLegal_iff`. -/
theorem busErrorExactlyOnIllegalAccess : Obligations.BusErrorExactlyOnIllegalAccess := by
  intro s width off v
  refine ⟨fun hbad => ?_, ?_⟩
  · have hillegal : ¬ accessLegal width off = true := by
      rw [accessLegal_iff]
      omega
    exact ⟨if_neg hillegal, if_neg hillegal⟩
  · rintro rfl ha hw
    exact ⟨⟨_, applyInput_read s off ha hw⟩, ⟨_, applyInput_write s off v ha hw⟩⟩

end Sys2Proof.Machine

/-! PROOFS. The encoding: the verdict of every command word by its bits, decoding what the encoder and an assembly line
write, the arguments a form does not read, and the forms that mean the same. -/

namespace Sys2Proof.Machine

/-! ### The form table -/

/-- An accepted shape has a defined OPCODE and an NARGS of four bits (30 R90, R91, R92). -/
theorem bounds_of_mem_acceptedShapes {op n : Nat} (h : (op, n) ∈ acceptedShapes) : op ≠ 0 ∧ op ≤ 7 ∧ n < 16 := by
  have hall : ∀ p ∈ acceptedShapes, p.1 ≠ 0 ∧ p.1 ≤ 7 ∧ p.2 < 16 := by decide
  exact hall _ h

/-- The form that a shape selects has this shape in its command word (30 R93). -/
theorem commandWord_of_formOf {op n : Nat} {a : Args} {i : Instr} (h : formOf op n a = some i) :
    (commandWord i).toNat = n * 256 + op := by
  unfold formOf at h
  split at h <;> cases h <;> rfl

/-- A shape that the table does not list selects no form (30 R92). -/
theorem formOf_eq_none {op n : Nat} (h : (op, n) ∉ acceptedShapes) (a : Args) : formOf op n a = none := by
  unfold formOf
  split
  case h_11 => rfl
  all_goals exact absurd (by decide) h

/-- A shape that the table lists selects a form, whatever the argument words (30 R92). -/
theorem exists_formOf {op n : Nat} (h : (op, n) ∈ acceptedShapes) (a : Args) : ∃ i, formOf op n a = some i := by
  have hall : ∀ p ∈ acceptedShapes, ∃ i, formOf p.1 p.2 a = some i := by simp [acceptedShapes, formOf]
  exact hall _ h

/-- The form of a shape depends only on the argument words its NARGS counts (30 R96, R97). -/
theorem formOf_congr (op n : Nat) {a b : Args} (h : (argumentList a).take n = (argumentList b).take n) :
    formOf op n a = formOf op n b := by
  have hall : ∀ p ∈ acceptedShapes, (argumentList a).take p.2 = (argumentList b).take p.2 →
      formOf p.1 p.2 a = formOf p.1 p.2 b := by
    simp +contextual [acceptedShapes, formOf, argumentList]
  by_cases hm : (op, n) ∈ acceptedShapes
  · exact hall _ hm h
  · rw [formOf_eq_none hm, formOf_eq_none hm]

theorem coord_roundtrip_of_fits {x : Int} (h : coordFits x = true) : coordOperand (coordWord x) = x := by
  obtain ⟨hlo, hhi⟩ : -2147483648 ≤ x ∧ x < 2147483648 := by simpa [coordFits] using h
  exact coord_roundtrip x hlo hhi

theorem count_roundtrip_of_fits {n : Nat} (h : countFits n = true) : countOperand (countWord n) = n :=
  count_roundtrip n (of_decide_eq_true h)

theorem depth_roundtrip (n : Byte) : depthOperand (byteWord n) = n := byte_roundtrip n

/-- The shape of a command's word selects this command from its own argument words, if its operands fit (30 R95,
R96). -/
theorem formOf_argumentWords (i : Instr) (hi : i.wellFormed = true) :
    formOf ((commandWord i).toNat % 256) ((commandWord i).toNat / 256) (argumentWords i) = some i := by
  cases i with
  | clear => rfl
  | fillP c => simp [commandWord, argumentWords, formOf, packedOperand]
  | fillRgb r g b => simp [commandWord, argumentWords, formOf, byte_roundtrip]
  | setPixelP x y c =>
    obtain ⟨hx, hy⟩ := Bool.and_eq_true_iff.1 hi
    simp [commandWord, argumentWords, formOf, packedOperand, coord_roundtrip_of_fits hx, coord_roundtrip_of_fits hy]
  | setPixelRgb x y r g b =>
    obtain ⟨hx, hy⟩ := Bool.and_eq_true_iff.1 hi
    simp [commandWord, argumentWords, formOf, byte_roundtrip, coord_roundtrip_of_fits hx, coord_roundtrip_of_fits hy]
  | setBuffer h => simp [commandWord, argumentWords, formOf, handleOperand]
  | setImage h => simp [commandWord, argumentWords, formOf, handleOperand]
  | setImageOff h dx dy =>
    obtain ⟨hx, hy⟩ := Bool.and_eq_true_iff.1 hi
    simp [commandWord, argumentWords, formOf, handleOperand, coord_roundtrip_of_fits hx, coord_roundtrip_of_fits hy]
  | setPwmBits n => simp [commandWord, argumentWords, formOf, depth_roundtrip]
  | construct rows chain =>
    obtain ⟨hr, hc⟩ := Bool.and_eq_true_iff.1 hi
    simp [commandWord, argumentWords, formOf, count_roundtrip_of_fits hr, count_roundtrip_of_fits hc]

/-! ### The verdict of a word -/

theorem opcodeDefined_iff (op : Nat) : opcodeDefined op = true ↔ op ≠ 0 ∧ op ≤ 7 := by
  simp only [opcodeDefined, Bool.and_eq_true, decide_eq_true_eq]
  omega

/-- Nonzero reserved bits or a reserved OPCODE (30 R94, R99). -/
theorem decode_illegal {w : Word} (h : w.toNat / 4096 ≠ 0 ∨ w.toNat % 256 = 0 ∨ 7 < w.toNat % 256) (a : Args) :
    decode w a = .illegal := by
  refine if_pos ?_
  rw [reservedOf_nat, opcodeOf_nat, ← Bool.not_eq_true, opcodeDefined_iff]
  omega

/-- A word without reserved bits and with a defined OPCODE has the verdict of the form table (30 R94). -/
theorem decode_defined {w : Word} (hres : w.toNat / 4096 = 0) (hop : w.toNat % 256 ≠ 0 ∧ w.toNat % 256 ≤ 7)
    (a : Args) : decode w a =
      ((formOf (w.toNat % 256) (w.toNat / 256) a).map Verdict.form).getD (.malformed (w.toNat % 256)) := by
  have hn : w.toNat / 256 % 16 = w.toNat / 256 := by omega
  unfold decode
  rw [reservedOf_nat, opcodeOf_nat, nargsOf_nat, (opcodeDefined_iff _).2 hop, hn, if_neg (by simp [hres])]
  cases formOf (w.toNat % 256) (w.toNat / 256) a <;> rfl

/-- The words that decode to a form (30 R94). -/
theorem decode_eq_form_iff (w : Word) (a : Args) (i : Instr) :
    decode w a = .form i ↔ formOf (w.toNat % 256) (w.toNat / 256) a = some i := by
  by_cases h : w.toNat / 4096 ≠ 0 ∨ w.toNat % 256 = 0 ∨ 7 < w.toNat % 256
  · have hm : (w.toNat % 256, w.toNat / 256) ∉ acceptedShapes := by
      intro hm
      have := bounds_of_mem_acceptedShapes hm
      omega
    simp [decode_illegal h, formOf_eq_none hm]
  · rw [decode_defined (by omega) (by omega)]
    cases formOf (w.toNat % 256) (w.toNat / 256) a <;> simp

/-- A word with a defined OPCODE and a shape the table does not list is malformed (30 R94, R100). -/
theorem decode_malformed {w : Word} (hres : w.toNat / 4096 = 0) (hop : w.toNat % 256 ≠ 0 ∧ w.toNat % 256 ≤ 7)
    (hm : (w.toNat % 256, w.toNat / 256) ∉ acceptedShapes) (a : Args) : decode w a = .malformed (w.toNat % 256) := by
  rw [decode_defined hres hop, formOf_eq_none hm]
  rfl

/-- A word decodes alike under argument words that agree as far as its NARGS counts (30 R97). -/
theorem decode_congr (w : Word) {a b : Args}
    (h : (argumentList a).take (w.toNat / 256 % 16) = (argumentList b).take (w.toNat / 256 % 16)) :
    decode w a = decode w b := by
  unfold decode
  rw [nargsOf_nat, formOf_congr _ _ h]

/-- Settles O1: the command's shape selects it from its argument words. -/
theorem decodeOfEncodeIsTheCommand : Obligations.DecodeOfEncodeIsTheCommand :=
  fun i hi => (decode_eq_form_iff _ _ i).2 (formOf_argumentWords i hi)

/-- Settles O2: the selected form's command word has the word's OPCODE and NARGS, and these are all its bits. -/
theorem formSelectedOnlyByItsWholeWord : Obligations.FormSelectedOnlyByItsWholeWord := by
  intro w a i h
  have hword := commandWord_of_formOf ((decode_eq_form_iff w a i).1 h)
  apply BitVec.eq_of_toNat_eq
  omega

/-- Settles O3. -/
theorem everyWordHasItsVerdict : Obligations.EveryWordHasItsVerdict := by
  refine fun w a => ⟨fun h => decode_illegal h a, fun hres h0 h7 => ⟨fun hm => ?_, fun hm => ?_⟩⟩
  · obtain ⟨i, hi⟩ := exists_formOf hm a
    have hd := (decode_eq_form_iff w a i).2 hi
    exact ⟨i, hd, (formSelectedOnlyByItsWholeWord w a i hd).symm⟩
  · exact decode_malformed hres ⟨h0, h7⟩ hm a

/-- Settles O4: each clause is the decoder's value at numerals. -/
theorem tableWordsDecode : Obligations.TableWordsDecode := by
  unfold Obligations.TableWordsDecode
  decide

/-! ### Malformed words -/

/-- The code a malformed word completes with (30 R100, 40 R123). -/
theorem planMalformed_code (s : State) (op : Nat) : (planMalformed s op).code =
    if op = 7 then .constructFailed else if s.constructed = false then .notConstructed
    else if s.latch.ctrl.diagEn = true then .diagInvalidArgs else .ok := by
  unfold planMalformed
  split_ifs with h7 hc hd
  · rfl
  · rw [onSurface_unconstructed s _ hc]
    rfl
  · rw [onSurface_constructed s _ (Bool.not_eq_false _ ▸ hc)]
    exact if_pos hd
  · rw [onSurface_constructed s _ (Bool.not_eq_false _ ▸ hc)]
    exact if_neg hd

theorem planMalformed_info (s : State) (op : Nat) : (planMalformed s op).info = 0 := by
  unfold planMalformed Plan.onSurface
  split_ifs <;> rfl

/-- Settles O9: the plan of a malformed word has no event and only completes. -/
theorem malformedWordHasNoEvent : Obligations.MalformedWordHasNoEvent := by
  intro s hv hres h0 h7 hm
  have hplan : latchedPlan s = planMalformed s (s.latch.cmd.toNat % 256) := by
    unfold latchedPlan
    rw [decode_malformed hres ⟨h0, h7⟩ hm]
  have hplain := planMalformed_plain s (s.latch.cmd.toNat % 256)
  have hnone := malformed_events s (s.latch.cmd.toNat % 256)
  obtain ⟨hdone, hevs, hout, hclip, hgeom⟩ := carryOut_spec s (planMalformed s (s.latch.cmd.toNat % 256))
  rw [planMalformed_code, planMalformed_info, hnone] at hdone
  rw [hnone] at hevs
  refine ⟨_, ?_, hdone, hevs, ?_, hclip hplain.clip_none, hgeom hplain.geom_none, hout⟩
  · rw [engineTurn_eq, if_pos hv, hplan]
  · rw [carryOut_view, hnone]
    rfl

/-! ### Forms that mean the same -/

/-- CLEAR and FILL 0, 0, 0 blacken the view there is, if there is a surface (44 R190, R193). -/
theorem blackening_view (s : State) :
    (s.carryOut (planOf (.fillRgb 0 0 0) s)).view = (s.carryOut (planOf .clear s)).view := by
  rw [carryOut_view, carryOut_view]
  cases hc : s.constructed with
  | true =>
    simp only [planOf, onSurface_constructed s _ hc]
    rfl
  | false => simp only [planOf, onSurface_unconstructed s _ hc]

/-- Settles O43: each pair of forms carries out the same plan, but for the event of CLEAR and of the black fill. -/
theorem formsThatMeanTheSame : Obligations.FormsThatMeanTheSame := by
  refine ⟨fun s h => rfl, fun s t u ht hu => ?_, fun s c => ?_, fun s x y c => ?_⟩
  · rw [exec_eq] at ht hu
    cases ht
    cases hu
    refine ⟨blackening_view s, fun hc => ?_⟩
    simp only [planOf, onSurface_constructed s _ hc]
    exact ⟨carryOut_trace s _, carryOut_trace s _⟩
  · rw [← unpack24_eq]
    rfl
  · rw [← unpack24_eq]
    rfl

/-! ### Argument words a form does not read -/

/-- The state with other argument words in its latch. -/
def State.withLatchedArgs (s : State) (a : Args) : State := { s with latch := { s.latch with args := a } }

theorem planVisible_withLatchedArgs (s : State) (a : Args) (h : Word) (img : ImageRec) (c : Clip) :
    planVisible (s.withLatchedArgs a) h img c = planVisible s h img c := by
  unfold planVisible
  rw [blitLoop_congr s (s.withLatchedArgs a) h img img c c.pixels fun _ _ => rfl]
  rfl

theorem planSetImage_withLatchedArgs (s : State) (a : Args) (h : Word) (dx dy : Int) :
    planSetImage (s.withLatchedArgs a) h dx dy = planSetImage s h dx dy := by
  have hdesc : (s.withLatchedArgs a).imgDesc h = s.imgDesc h := rfl
  cases hd : s.imgDesc h with
  | none => simp only [planSetImage, hdesc, hd]
  | some img =>
    simp only [planSetImage, hdesc, hd, planVisible_withLatchedArgs]
    rfl

/-- No command's plan looks at the latched argument words: its operands are in the decoded form (30 R97). -/
theorem planOf_withLatchedArgs (i : Instr) (s : State) (a : Args) : planOf i (s.withLatchedArgs a) = planOf i s := by
  cases i with
  | setImage h => exact congrArg (Plan.onSurface s) (planSetImage_withLatchedArgs s a h 0 0)
  | setImageOff h dx dy => exact congrArg (Plan.onSurface s) (planSetImage_withLatchedArgs s a h dx dy)
  | _ => rfl

theorem carryOut_withLatchedArgs (s : State) (p : Plan) (a : Args) :
    (s.withLatchedArgs a).carryOut p = (s.carryOut p).withLatchedArgs a := by
  obtain ⟨evs, code, info, clip, geom⟩ := p
  cases clip <;> cases geom <;> rfl

/-- The latched command's plan depends on the latched argument words only through what they decode to. -/
theorem latchedPlan_withLatchedArgs (s : State) (a : Args)
    (h : decode s.latch.cmd a = decode s.latch.cmd s.latch.args) :
    latchedPlan (s.withLatchedArgs a) = latchedPlan s := by
  have hverdict : decode (s.withLatchedArgs a).latch.cmd (s.withLatchedArgs a).latch.args =
      decode s.latch.cmd s.latch.args := h
  unfold latchedPlan
  rw [hverdict]
  cases decode s.latch.cmd s.latch.args with
  | illegal => rfl
  | malformed op => rfl
  | form i => exact planOf_withLatchedArgs i s a

/-- Settles O5: the latch's argument words enter a command only by decoding. -/
theorem unlistedArgumentsHaveNoEffect : Obligations.UnlistedArgumentsHaveNoEffect := by
  intro s t a hargs h
  rw [perform_eq] at h
  cases h
  show (s.withLatchedArgs a).perform = .next ((s.carryOut (latchedPlan s)).withLatchedArgs a)
  rw [perform_eq, latchedPlan_withLatchedArgs s a (decode_congr _ hargs), carryOut_withLatchedArgs]

/-! ### Assembly lines -/

theorem assembledWord_assemblyOf (i : Instr) :
    assembledWord (assemblyOf i).1 (assemblyOf i).2.length = some (commandWord i) := by
  cases i <;> rfl

/-- NARGS of a command's word counts its assembly operands (30 R90, R102). -/
theorem nargs_commandWord (i : Instr) : (commandWord i).toNat / 256 % 16 = (assemblyOf i).2.length := by
  cases i <;> simp [commandWord, assemblyOf]

/-- The argument words of a command that NARGS counts are its assembly operands, each as a word (30 R96, R102). -/
theorem take_argumentWords (i : Instr) : (argumentList (argumentWords i)).take (assemblyOf i).2.length =
    (assemblyOf i).2.map (BitVec.ofInt 32) := by
  cases i <;> simp [argumentList, argumentWords, assemblyOf, byteWord, coordWord, countWord, BitVec.ofNat_toNat]

/-- A command has at most five operands. -/
theorem assemblyOf_length_le (i : Instr) : (assemblyOf i).2.length ≤ 5 := by
  cases i <;> simp [assemblyOf]

theorem operandWrites_length (off : Nat) (ops : List Int) : (operandWrites off ops).length = ops.length := by
  induction ops generalizing off with
  | nil => rfl
  | cons v ops ih => simp [operandWrites, ih]

/-- A pending legal write is the next step (20 R60). -/
theorem step_write (s : State) (off : Nat) (v : Word) (rest : List Input) (ha : off % 4 = 0) (hw : off < 64) :
    step { s with agenda := .write 32 off v :: rest } = .next (State.writeReg { s with agenda := rest } off v) :=
  applyInput_write { s with agenda := rest } off v ha hw

theorem take_succ_set {α : Type} {l : List α} {k : Nat} (hk : k < l.length) (v : α) :
    (l.set k v).take (k + 1) = l.take k ++ [v] := by
  rw [List.take_succ_eq_append_getElem (by simpa using hk), List.getElem_set_self, List.take_set_of_le le_rfl]

/-- The writes of operands to ARG`k`, ARG`k + 1`, … store them there and keep the argument words before (30 R103). -/
theorem run_operandWrites (ops : List Int) (m : Nat) (rest : List Input) (s : State) (k : Nat)
    (hk : k + ops.length ≤ 5) : ∃ a,
      Sys2Proof.core.run (ops.length + m) { s with agenda := operandWrites (4 + 4 * k) ops ++ rest } =
        Sys2Proof.core.run m { s with args := a, agenda := rest } ∧
      (argumentList a).take (k + ops.length) = (argumentList s.args).take k ++ ops.map (BitVec.ofInt 32) := by
  induction ops generalizing s k with
  | nil => exact ⟨s.args, by simp [operandWrites], by simp⟩
  | cons v ops ih =>
    rw [List.length_cons] at hk
    obtain ⟨b, hwrite, hb⟩ := writeReg_arg { s with agenda := operandWrites (4 + 4 * (k + 1)) ops ++ rest } k
      (BitVec.ofInt 32 v) (by omega)
    obtain ⟨a, hrun, ha⟩ := ih { s with args := b } (k + 1) (by omega)
    refine ⟨a, ?_, ?_⟩
    · rw [← hrun, List.length_cons, Nat.add_right_comm]
      exact run_succ ((step_write s (4 + 4 * k) _ _ (by omega) (by omega)).trans (congrArg _ hwrite))
    · have htake : (argumentList b).take (k + 1) = (argumentList s.args).take k ++ [BitVec.ofInt 32 v] :=
        hb ▸ take_succ_set (show k < 5 by omega) _
      rw [List.length_cons, List.map_cons, Nat.add_comm ops.length, ← Nat.add_assoc, ha, htake, List.append_assoc]
      rfl

/-- A CMD write that finds the block idle is the next step and issues the word (40 R120). -/
theorem step_writeCmd (s : State) (w : Word) (rest : List Input) (hb : s.busy = false) :
    step { s with agenda := .write 32 0x00 w :: rest } = .next (State.issue { s with agenda := rest } w) :=
  (step_write s 0x00 w rest rfl (by decide)).trans
    (congrArg _ (if_neg (show ¬ s.busy = true by simp [hb])))

/-- Settles O6: the operand writes put the operands into the argument words that NARGS counts, and the CMD write
issues them. -/
theorem assembledLineIssuesItsCommand : Obligations.AssembledLineIssuesItsCommand := by
  intro i s hi hb
  obtain ⟨a, hrun, ha⟩ := run_operandWrites (assemblyOf i).2 1 [.write 32 0x00 (commandWord i), .poll] s 0
    (by simpa using assemblyOf_length_le i)
  refine ⟨operandWrites 0x04 (assemblyOf i).2 ++ [.write 32 0x00 (commandWord i)],
    State.issue { s with args := a, agenda := [.poll] } (commandWord i), ?_, ?_, rfl, rfl, ?_⟩
  · simp [expandLine, assembledWord_assemblyOf]
  · rw [List.append_assoc, List.length_append, operandWrites_length]
    exact hrun.trans (run_succ (step_writeCmd { s with args := a } (commandWord i) [.poll] hb))
  · have hread : (argumentList a).take ((commandWord i).toNat / 256 % 16) =
        (argumentList (argumentWords i)).take ((commandWord i).toNat / 256 % 16) := by
      rw [nargs_commandWord, take_argumentWords]
      simpa using ha
    exact (decode_congr _ hread).trans (decodeOfEncodeIsTheCommand i hi)

end Sys2Proof.Machine

/-! PROOFS. The command engine: its turn completes the latched command with an exact write count, what it performs, what
a CMD write does, and that a run comes to rest. -/

namespace Sys2Proof.Machine

/-! ### The number of cell writes -/

theorem fbSets_cons (e : Event) (evs : List Event) : fbSets (e :: evs) = fbSets [e] + fbSets evs :=
  fbSets_append [e] evs

/-- The check that a surface exists only takes writes away (40 R123). -/
theorem fbSets_onSurface_le (s : State) (p : Plan) : fbSets (Plan.onSurface s p).events ≤ fbSets p.events := by
  unfold Plan.onSurface
  split_ifs
  · exact le_rfl
  · exact Nat.zero_le _

/-- A SET_PIXEL writes its cell only inside the surface, which then has one (44 R194, R196). -/
theorem fbSets_planSetPixel_le (s : State) (x y : Int) (c : RGB) :
    fbSets (planSetPixel s x y c).events ≤ s.width * s.height := by
  unfold planSetPixel planOutOfRange
  split_ifs with hin
  · simp only [State.inSurface, Bool.and_eq_true, decide_eq_true_eq] at hin
    exact Nat.mul_pos (by omega) (by omega)
  · exact Nat.zero_le _
  · exact Nat.zero_le _

/-- A SET_BUFFER writes every cell once or none (42 R150). -/
theorem fbSets_planSetBuffer_le (s : State) (h : Word) :
    fbSets (planSetBuffer s h).events ≤ s.width * s.height := by
  unfold planSetBuffer
  split
  · exact Nat.zero_le _
  · split_ifs
    · exact Nat.zero_le _
    · simp only [Plan.done]
      rw [fbSets_cons, bufferLoop_count, length_rowMajor]
      exact (Nat.zero_add _).le

/-- The visible part of an image has no more pixels than the surface has cells (43 R165). -/
theorem length_pixels_le (s : State) (img : ImageRec) (dx dy : Int)
    (hc : (s.imageClip img dx dy).degenerate = false) :
    (s.imageClip img dx dy).pixels.length ≤ s.width * s.height := by
  obtain ⟨-, -, hdx, hw, -, -, -, hdy, hh, -⟩ := clip_inside _ _ _ _ _ _ hc
  rw [Clip.pixels, length_rowMajor]
  exact Nat.mul_le_mul (by simp only [State.imageClip]; omega) (by simp only [State.imageClip]; omega)

/-- Drawing the visible part of an image writes each of its pixels at most once (43 R170, R177, R182). -/
theorem fbSets_planVisible_le (s : State) (h : Word) (img : ImageRec) (c : Clip) :
    fbSets (planVisible s h img c).events ≤ c.pixels.length := by
  have hloop : fbSets (.imgDesc h :: (s.blitLoop h img c c.pixels).1) ≤ c.pixels.length := by
    rw [fbSets_cons]
    exact (Nat.zero_add _).trans_le (blitLoop_count s h img c c.pixels).1
  unfold planVisible
  split_ifs
  · dsimp only
    split <;> exact hloop
  · exact Nat.zero_le _

theorem fbSets_planSetImage_le (s : State) (h : Word) (dx dy : Int) :
    fbSets (planSetImage s h dx dy).events ≤ s.width * s.height := by
  unfold planSetImage
  split
  · exact Nat.zero_le _
  · next img _ =>
    dsimp only
    split_ifs with hdeg
    · exact Nat.zero_le _
    · exact (fbSets_planVisible_le s h img _).trans (length_pixels_le s img dx dy (Bool.not_eq_true _ ▸ hdeg))

/-- CONSTRUCT writes no cell (45 R212). -/
theorem fbSets_planConstruct (s : State) (rows chain : Nat) : fbSets (planConstruct s rows chain).events = 0 := by
  refine fbSets_none _ fun e he => ?_
  obtain ⟨hallowed, -⟩ := events_construct s rows chain e he
  cases e with
  | fbSet x y c => cases hallowed
  | _ => rfl

/-- No command writes more cells than the surface has. -/
theorem fbSets_planOf_le (s : State) (i : Instr) : fbSets (planOf i s).events ≤ s.width * s.height := by
  have surf : ∀ p : Plan, fbSets p.events ≤ s.width * s.height →
      fbSets (Plan.onSurface s p).events ≤ s.width * s.height := fun p => (fbSets_onSurface_le s p).trans
  cases i with
  | clear => exact surf _ (Nat.zero_le _)
  | fillP c => exact surf _ (Nat.zero_le _)
  | fillRgb r g b => exact surf _ (Nat.zero_le _)
  | setPixelP x y c => exact surf _ (fbSets_planSetPixel_le s x y _)
  | setPixelRgb x y r g b => exact surf _ (fbSets_planSetPixel_le s x y _)
  | setBuffer h => exact surf _ (fbSets_planSetBuffer_le s h)
  | setImage h => exact surf _ (fbSets_planSetImage_le s h 0 0)
  | setImageOff h dx dy => exact surf _ (fbSets_planSetImage_le s h dx dy)
  | setPwmBits n => exact surf _ (Nat.zero_le _)
  | construct rows chain => exact (fbSets_planConstruct s rows chain).trans_le (Nat.zero_le _)

/-- The latched command's writes are no more than the surface's cells, whatever its word. -/
theorem fbSets_latchedPlan_le (s : State) : fbSets (latchedPlan s).events ≤ s.width * s.height := by
  unfold latchedPlan
  cases decode s.latch.cmd s.latch.args with
  | illegal => exact Nat.zero_le _
  | malformed op =>
    dsimp only
    rw [malformed_events]
    exact Nat.zero_le _
  | form i => exact fbSets_planOf_le s i

/-- A surface of 16-bit dimensions has fewer cells than WCOUNT can count (10 R35). -/
theorem surface_cells_lt (s : State) : s.width * s.height < 2 ^ 32 := by
  calc s.width * s.height < Config.dimBound * Config.dimBound := Nat.mul_lt_mul'' (width_lt s) (height_lt s)
    _ = 2 ^ 32 := rfl

/-! ### The engine's turn -/

/-- Settles O11: the turn carries the latched plan out, whose writes WCOUNT holds without loss because they are no more
than the surface's cells. -/
theorem everyIssuedCommandCompletesOnce : Obligations.EveryIssuedCommandCompletesOnce := by
  refine fun s => ⟨fun hv => ?_, fun hv => ?_⟩
  · have hturn : s.engineTurn = .next (s.carryOut (latchedPlan s)) := by rw [engineTurn_eq, if_pos hv]
    obtain ⟨⟨-, -, hcount, -⟩, hevs, hout, -⟩ := carryOut_spec s (latchedPlan s)
    refine ⟨_, _, hturn, (turn_agenda hturn).2, hevs, ?_, hout⟩
    rw [hcount, BitVec.toNat_ofNat]
    exact Nat.mod_eq_of_lt ((fbSets_latchedPlan_le s).trans_lt (surface_cells_lt s))
  · rw [engineTurn_eq, hv]
    rfl

/-- The turn of a latched form is that form's meaning (40 R123). -/
theorem engineTurn_form {s : State} {i : Instr} (hv : s.latch.valid = true)
    (hd : decode s.latch.cmd s.latch.args = .form i) : s.engineTurn = exec i s := by
  have hplan : latchedPlan s = planOf i s := by rw [latchedPlan, hd]
  rw [engineTurn_eq, if_pos hv, hplan, exec_eq]

/-- A step while the engine's turn is the first pending action. -/
theorem step_engine {s : State} {rest : List Input} (hag : s.agenda = .engine :: rest) :
    step s = State.engineTurn { s with agenda := rest } := step_cons s .engine rest hag

/-- Settles O7. -/
theorem stepPerformsTheLatchedCommand : Obligations.StepPerformsTheLatchedCommand := by
  intro s i hv hd
  refine ⟨fun hidle => ?_, fun rest hag => ?_⟩
  · exact (step_idle s hidle).trans (engineTurn_form hv hd)
  · exact (step_engine hag).trans (engineTurn_form (s := { s with agenda := rest }) hv hd)

/-- Without a surface every command but CONSTRUCT has one plan (40 R123). -/
theorem planOf_unconstructed {s : State} {i : Instr} (hi : ∀ rows chain, i ≠ .construct rows chain)
    (hc : s.constructed = false) : planOf i s = Plan.raise [] .notConstructed 0 := by
  refine planOf_cases (· = Plan.raise [] .notConstructed 0) s i rfl (fun hs => ?_) fun _ rows chain he => ?_
  · rw [hc] at hs
    cases hs
  · exact absurd he (hi rows chain)

/-- Settles O10: the plan raises NOT_CONSTRUCTED, with no event, clip or geometry. -/
theorem commandsWithoutSurfaceAreNotConstructed : Obligations.CommandsWithoutSurfaceAreNotConstructed := by
  intro s i hi hc
  obtain ⟨hdone, hevs, hout, hclip, hgeom⟩ := carryOut_spec s (Plan.raise [] .notConstructed 0)
  refine ⟨_, ?_, hdone, hevs, ?_, hclip rfl, hgeom rfl, hout⟩
  · rw [exec_eq, planOf_unconstructed hi hc]
  · exact carryOut_view s _

/-! ### The CMD register -/

/-- Settles O13: the two branches of `State.writeCmd`. -/
theorem cmdWriteIssuesOrOverruns : Obligations.CmdWriteIssuesOrOverruns := by
  intro s w
  have hwrite : applyInput (.write 32 0x00 w) s = .next (s.writeCmd w) := applyInput_write s 0x00 w rfl (by decide)
  refine ⟨fun hidle => ?_, fun hbusy => ?_⟩
  · rw [hwrite, State.writeCmd, if_neg (by simp [hidle])]
    rfl
  · rw [hwrite, State.writeCmd, if_pos hbusy]

/-! ### Runs come to rest -/

/-- A run goes on from where a shorter one ended. -/
theorem run_add {j : Nat} {s t : State} (h : Sys2Proof.core.run j s = .next t) (k : Nat) :
    Sys2Proof.core.run (j + k) s = Sys2Proof.core.run k t := by
  induction j generalizing s with
  | zero =>
    cases h
    rw [Nat.zero_add]
  | succ j ih =>
    rw [Nat.add_right_comm]
    simp only [Host.Core.run] at h ⊢
    cases hstep : Sys2Proof.core.step s with
    | next u =>
      rw [hstep] at h
      exact ih h
    | fault r =>
      rw [hstep] at h
      cases h
    | refused r =>
      rw [hstep] at h
      cases h

/-- A poll that finds BUSY = 0 is one read of STATUS (30 R103). -/
theorem step_poll_idle {s : State} {rest : List Input} (hag : s.agenda = .poll :: rest) (hb : s.busy = false) :
    step s = .next (State.hostRead { s with agenda := rest } 0x18) := by
  have hidle : State.busy { s with agenda := rest } = false := hb
  rw [step_cons s .poll rest hag, applyInput, State.pollStatus, hidle]
  rfl

/-- The first pending action is taken off in at most three steps: in one, but for a poll that finds BUSY = 1, which takes
the engine's turn and a second read more (log 7). -/
theorem run_first_action {s : State} {e : Input} {rest : List Input} (hag : s.agenda = e :: rest)
    (he : e.harmless = true) : ∃ k t, k ≤ 3 ∧ Sys2Proof.core.run k s = .next t ∧ t.agenda = rest := by
  obtain ⟨t, happly, hkept | ⟨-, -, -, hpoll⟩⟩ := applyInput_next { s with agenda := rest } e he
  all_goals have hfirst : step s = .next t := (step_cons s e rest hag).trans happly
  · exact ⟨1, t, by omega, run_succ hfirst, hkept⟩
  · have hturn : step t = .next _ := (step_engine hpoll).trans (engineTurn_eq _)
    obtain ⟨hag', hidle⟩ := turn_agenda (engineTurn_eq { t with agenda := .poll :: rest })
    exact ⟨3, _, le_rfl, (run_succ hfirst).trans ((run_succ hturn).trans (run_succ (step_poll_idle hag' hidle))), rfl⟩

/-- The pending actions are all taken off within three steps for each. -/
theorem run_agenda (as : List Input) (s : State) (hag : s.agenda = as) (ha : ∀ e ∈ as, e.harmless = true) :
    ∃ k t, k ≤ 3 * as.length ∧ Sys2Proof.core.run k s = .next t ∧ t.agenda = [] := by
  induction as generalizing s with
  | nil => exact ⟨0, s, le_rfl, rfl, hag⟩
  | cons e rest ih =>
    rw [List.forall_mem_cons] at ha
    obtain ⟨he, hrest⟩ := ha
    obtain ⟨j, u, hj, hfirst, hu⟩ := run_first_action hag he
    obtain ⟨k, t, hk, hrun, ht⟩ := ih u hu hrest
    refine ⟨j + k, t, ?_, (run_add hfirst k).trans hrun, ht⟩
    rw [List.length_cons]
    omega

/-- Settles O60: when the pending actions are taken off, one more turn of the engine completes a command still latched. -/
theorem everyRunComesToRest : Obligations.EveryRunComesToRest := by
  intro s ha
  obtain ⟨k, t, hk, hrun, ht⟩ := run_agenda s.agenda s rfl ha
  have hturn := engineTurn_eq t
  obtain ⟨hag, hidle⟩ := turn_agenda hturn
  refine ⟨k + 1, _, by omega, ?_, hag.trans ht, hidle⟩
  exact (run_add hrun 1).trans (run_succ ((step_idle t ht).trans hturn))

end Sys2Proof.Machine

/-! PROOFS. The color codec: what each direction is by arithmetic, and that the two are inverse on the low 24 bits. -/

namespace Sys2Proof.Machine

/-- The channels of a packed word as numbers (41 R140, R144). -/
theorem unpack24_toNat (w : Word) : (unpack24 w).r.toNat = w.toNat / 65536 % 256 ∧
    (unpack24 w).g.toNat = w.toNat / 256 % 256 ∧ (unpack24 w).b.toNat = w.toNat % 256 := by
  simp [unpack24, field_toNat]

/-- The packed word as a number: the channels are its base-256 digits, and the digit above them is 0 (41 R141). -/
theorem pack24_toNat (c : RGB) : (pack24 c).toNat = c.r.toNat * 65536 + c.g.toNat * 256 + c.b.toNat := by
  simp only [pack24, append_toNat, BitVec.toNat_ofNat]
  omega

/-- The mask of the 24 color bits is the remainder by 2^24. -/
theorem and_colorMask_toNat (w : Word) : (w &&& 0x00FFFFFF).toNat = w.toNat % 16777216 := by
  rw [BitVec.toNat_and]
  exact Nat.and_two_pow_sub_one_eq_mod w.toNat 24

/-- A packed color is read back: each channel is a digit below 256, which division and remainder recover (41 R142). -/
theorem unpack24_pack24 (c : RGB) : unpack24 (pack24 c) = c := by
  obtain ⟨hr, hg, hb⟩ := unpack24_toNat (pack24 c)
  rw [pack24_toNat] at hr hg hb
  have hr' : (unpack24 (pack24 c)).r = c.r := BitVec.eq_of_toNat_eq (by omega)
  have hg' : (unpack24 (pack24 c)).g = c.g := BitVec.eq_of_toNat_eq (by omega)
  have hb' : (unpack24 (pack24 c)).b = c.b := BitVec.eq_of_toNat_eq (by omega)
  exact (RGB.mk.injEq ..).mpr ⟨hr', hg', hb'⟩

/-- Packing a word's three channels rebuilds its low 24 bits (41 R142, R144). -/
theorem pack24_unpack24 (w : Word) : pack24 (unpack24 w) = w &&& 0x00FFFFFF := by
  apply BitVec.eq_of_toNat_eq
  obtain ⟨hr, hg, hb⟩ := unpack24_toNat w
  rw [pack24_toNat, and_colorMask_toNat, hr, hg, hb]
  omega

/-- Settles O25: both directions are arithmetic on the base-256 digits of the word. -/
theorem codecRoundTrip : Obligations.CodecRoundTrip := ⟨unpack24_pack24, pack24_unpack24⟩

end Sys2Proof.Machine

/-! PROOFS. SET_BUFFER: the cells after a command of single-cell writes, the transfer's events and bytes, and the command's
three outcomes. -/

namespace Sys2Proof.Machine

/-! ### The cells after single-cell writes -/

/-- A cell of the surface after a plan of single-cell writes and reads holds the last color written to it, or what it
held (10 R40). -/
theorem fb_carryOut {s : State} {p : Plan} {v : View} (hv : s.view = some v) (hwf : v.wf = true) (hg : p.geom = none)
    (hkind : ∀ e ∈ p.events, e.isCellOrRead = true) (hin : FbSetsInside s.width s.height p.events) {x y : Nat}
    (hx : x < s.width) (hy : y < s.height) :
    (s.carryOut p).fb x y = some ((lastSet x y p.events).getD (v.colorAt x y)) := by
  obtain ⟨u, hu, hcolor⟩ :=
    viewAfter_fold_color s.latch.index s.width s.height (width_lt s).le p.events hkind hin v hwf
  have hview : (s.carryOut p).view = some u := by rw [carryOut_view, hv, hu]
  have hgeom : (s.carryOut p).geom = s.geom := by rw [carryOut_geom, hg, Option.getD_none]
  have hinside : x < (s.carryOut p).width ∧ y < (s.carryOut p).height := by
    rw [State.width, State.height, hgeom]
    exact ⟨hx, hy⟩
  rw [State.fb, hview, ← hcolor x y hx]
  exact if_pos hinside

/-! ### The events of a transfer -/

theorem mem_copyEvents {handle : Word} {w h : Nat} {color : Nat → Nat → RGB} {e : Event} :
    e ∈ copyEvents handle w h color ↔ e = .bufLen handle ∨ ∃ y < h, ∃ x < w,
      e = .bufRead handle (3 * (y * w + x)) ∨ e = .bufRead handle (3 * (y * w + x) + 1) ∨
        e = .bufRead handle (3 * (y * w + x) + 2) ∨ e = .fbSet x y (color x y) := by
  simp [copyEvents]

/-- The transfer writes every cell of the surface, with its color, and no other cell (42 R153). -/
theorem fbSet_mem_copyEvents {handle : Word} {w h : Nat} {color : Nat → Nat → RGB} {x y : Nat} {c : RGB} :
    .fbSet x y c ∈ copyEvents handle w h color ↔ (x < w ∧ y < h) ∧ c = color x y := by
  rw [mem_copyEvents]
  constructor
  · rintro (he | ⟨j, hj, i, hi, he | he | he | he⟩) <;> cases he
    exact ⟨⟨hi, hj⟩, rfl⟩
  · rintro ⟨⟨hx, hy⟩, rfl⟩
    exact Or.inr ⟨y, hy, x, hx, Or.inr (Or.inr (Or.inr rfl))⟩

theorem isCellOrRead_of_mem_copyEvents {handle : Word} {w h : Nat} {color : Nat → Nat → RGB} {e : Event}
    (he : e ∈ copyEvents handle w h color) : e.isCellOrRead = true := by
  obtain rfl | ⟨y, -, x, -, rfl | rfl | rfl | rfl⟩ := mem_copyEvents.1 he <;> rfl

theorem lastSet_copyEvents {handle : Word} {w h : Nat} {color : Nat → Nat → RGB} {x y : Nat} (hx : x < w) (hy : y < h) :
    lastSet x y (copyEvents handle w h color) = some (color x y) :=
  lastSet_some x y _ _ (fbSet_mem_copyEvents.2 ⟨⟨hx, hy⟩, rfl⟩) fun _ hc => (fbSet_mem_copyEvents.1 hc).2

/-- The transfer of a buffer writes the surface's cells in row-major order (00 R15). -/
theorem writtenCells_bufferCopy (s : State) (h : Word) (buf : List Byte) :
    writtenCells (copyEvents h s.width s.height (s.bufferColor h buf)) = rowMajor s.width s.height := by
  rw [← bufferLoop_events]
  exact bufferLoop_writtenCells s h buf _

/-- The transfer of a buffer has one write for each cell of the surface (42 R153). -/
theorem fbSets_bufferCopy (s : State) (h : Word) (buf : List Byte) :
    fbSets (copyEvents h s.width s.height (s.bufferColor h buf)) = s.width * s.height := by
  rw [← bufferLoop_events, fbSets_cons, bufferLoop_count, length_rowMajor]
  exact Nat.zero_add _

/-! ### The bytes of a buffer -/

/-- The length of an unchanged buffer is that of its present record (70 R262). -/
theorem bufDesc_stable {s : State} {h : Word} (hst : s.bufferStable h = true) : s.bufDesc h = s.stores.buffer h :=
  if_pos hst

/-- A read inside an unchanged buffer answers its byte (20 R66, 70 R262). -/
theorem getElem?_bufRead {s : State} {h : Word} {buf : List Byte} {k : Nat} (hst : s.bufferStable h = true)
    (hk : k < buf.length) : buf[k]? = some (s.bufRead h buf k) := by
  rw [State.bufRead, if_pos hst, List.getD_eq_getElem _ _ hk, List.getElem?_eq_getElem hk]

/-- The color of a cell is its three bytes of an unchanged buffer of the surface's size (42 R151). -/
theorem getElem?_bufferColor {s : State} {h : Word} {buf : List Byte} {x y : Nat} (hst : s.bufferStable h = true)
    (hlen : buf.length = s.width * s.height * 3) (hx : x < s.width) (hy : y < s.height) :
    buf[3 * (y * s.width + x)]? = some (s.bufferColor h buf x y).r ∧
      buf[3 * (y * s.width + x) + 1]? = some (s.bufferColor h buf x y).g ∧
      buf[3 * (y * s.width + x) + 2]? = some (s.bufferColor h buf x y).b := by
  have hbyte : ∀ k < 3, buf[bufferOffset s.width x y + k]? = some (s.bufRead h buf (bufferOffset s.width x y + k)) :=
    fun k hk => getElem?_bufRead hst (hlen ▸ bufferOffset_lt s.width s.height x y k hx hy hk)
  rw [Nat.mul_comm 3]
  exact ⟨hbyte 0 (by decide), hbyte 1 (by decide), hbyte 2 (by decide)⟩

/-! ### The three outcomes of SET_BUFFER -/

/-- On a surface SET_BUFFER carries out its own plan (40 R123). -/
theorem exec_setBuffer {s : State} (hc : s.constructed = true) (h : Word) :
    exec (.setBuffer h) s = .next (s.carryOut (planSetBuffer s h)) := by
  rw [exec_eq, planOf, onSurface_constructed s _ hc]

theorem planSetBuffer_missing {s : State} {h : Word} (hd : s.bufDesc h = none) :
    planSetBuffer s h = Plan.raise [.bufLen h] .badHandle h := by
  simp only [planSetBuffer, hd]

theorem planSetBuffer_mismatch {s : State} {h : Word} {buf : List Byte} (hd : s.bufDesc h = some buf)
    (hlen : buf.length ≠ s.width * s.height * 3) :
    planSetBuffer s h = Plan.raise [.bufLen h] .sizeMismatch (BitVec.ofNat 32 buf.length) := by
  simp only [planSetBuffer, hd]
  exact if_pos hlen

theorem planSetBuffer_copy {s : State} {h : Word} {buf : List Byte} (hd : s.bufDesc h = some buf)
    (hlen : buf.length = s.width * s.height * 3) :
    planSetBuffer s h = Plan.done (copyEvents h s.width s.height (s.bufferColor h buf)) := by
  simp only [planSetBuffer, hd, ← bufferLoop_events]
  exact if_neg (not_not_intro hlen)

/-- An error raised after the BufLen event alone: no write, and every cell, CLIP and the surface as before (42 R152). -/
theorem carryOut_raise_bufLen (s : State) (h : Word) (code : Result) (info : Word) :
    let t := s.carryOut (Plan.raise [.bufLen h] code info)
    Completed s t code info 0 ∧ EventsAppended s t [.bufLen h] ∧ CellsKept s t ∧ ClipKept s t ∧ SurfaceKept s t ∧
      OutsideKept s t := by
  obtain ⟨hdone, hevs, hout, hclip, hgeom⟩ := carryOut_spec s (Plan.raise [.bufLen h] code info)
  have hcells : CellsKept s _ := cellsKept_of_view (carryOut_view s _) (hgeom rfl).1
  exact ⟨hdone, hevs, hcells, hclip rfl, hgeom rfl, hout⟩

/-- Settles O31: both failures raise after the BufLen event, which leaves the view alone. -/
theorem setBufferFailsBeforeAnyWrite : Obligations.SetBufferFailsBeforeAnyWrite := by
  refine fun s h hc => ⟨fun hd => ⟨_, exec_setBuffer hc h, ?_⟩, fun buf hd hlen => ⟨_, exec_setBuffer hc h, ?_⟩⟩
  · rw [planSetBuffer_missing hd]
    exact carryOut_raise_bufLen s h .badHandle h
  · rw [planSetBuffer_mismatch hd hlen]
    exact carryOut_raise_bufLen s h .sizeMismatch (BitVec.ofNat 32 buf.length)

/-- Settles O30: the transfer writes the row-major positions, each once, so that the color a cell is written with is the
one it holds afterwards; that color is the buffer's bytes while the buffer is unchanged. -/
theorem setBufferCopiesTheBuffer : Obligations.SetBufferCopiesTheBuffer := by
  intro s h buf hi hc hd hlen
  obtain ⟨v, hv, hwf, -⟩ := view_of_inv hi hc
  have hcells := writtenCells_bufferCopy s h buf
  obtain ⟨hdone, hevs, hout, hclip, hgeom⟩ :=
    carryOut_spec s (Plan.done (copyEvents h s.width s.height (s.bufferColor h buf)))
  refine ⟨_, s.bufferColor h buf, ?_, ?_, hevs, ?_, fun x y => ?_, fun x y hx hy => ?_, fun hst => ?_,
    hclip rfl, hgeom rfl, hout⟩
  · rw [exec_setBuffer hc, planSetBuffer_copy hd hlen]
  · rw [← fbSets_bufferCopy s h buf]
    exact hdone
  · rw [hcells]
    exact nodup_rowMajor _ _
  · rw [hcells]
    exact mem_rowMajor _ _ (x, y)
  · rw [fb_carryOut hv hwf rfl (fun _ he => isCellOrRead_of_mem_copyEvents he)
      (fun _ _ _ he => (fbSet_mem_copyEvents.1 he).1) hx hy]
    simp only [Plan.done, lastSet_copyEvents hx hy, Option.getD_some]
  · exact ⟨(bufDesc_stable hst).symm.trans hd, fun x y hx hy => getElem?_bufferColor hst hlen hx hy⟩

end Sys2Proof.Machine

/-! PROOFS. The blitter: the clip's closed form and bounds, the pixel decoders by arithmetic, and the outcomes of
SET_IMAGE. -/

namespace Sys2Proof.Machine

/-! ### The clip -/

/-- One axis of the clip in closed form (43 R164): the far edge cuts the length to `min (d + n) m - d`, the near edge
moves a negative offset into the source. -/
theorem clipAxis_eq (m n d : Int) :
    clipAxis m n d = { src := max (-d) 0, dst := max d 0, len := min (d + n) m - max d 0 } := by
  unfold clipAxis
  dsimp only
  split_ifs <;> simp only [AxisClip.mk.injEq] <;> omega

/-- Settles O26: the closed form of each axis, whose visible span is then an intersection of intervals. -/
theorem clipClosedForm : Obligations.ClipClosedForm := by
  intro mw mh w0 h0 dx0 dy0
  simp only [clip, clipAxis_eq, true_and]
  refine ⟨fun k => ?_, fun k => ?_⟩ <;> omega

theorem mem_pixels {c : Clip} {p : Nat × Nat} : p ∈ c.pixels ↔ (p.1 : Int) < c.w ∧ (p.2 : Int) < c.h := by
  rw [Clip.pixels, mem_rowMajor, Int.lt_toNat, Int.lt_toNat]

theorem target_injective (c : Clip) : Function.Injective c.target := by
  intro p q h
  obtain ⟨hx, hy⟩ := Prod.mk.inj h
  exact Prod.ext (by omega) (by omega)

theorem degenerate_eq_false_iff (c : Clip) : c.degenerate = false ↔ 0 < c.w ∧ 0 < c.h := by
  simp [Clip.degenerate]

/-- A visible pixel has its destination on the surface, at its place from the clip's offset (43 R165). -/
theorem target_of_mem_pixels {s : State} {img : ImageRec} {dx0 dy0 : Int} {p : Nat × Nat}
    (hdeg : (s.imageClip img dx0 dy0).degenerate = false) (hp : p ∈ (s.imageClip img dx0 dy0).pixels) :
    let c := s.imageClip img dx0 dy0
    (c.target p).1 < s.width ∧ (c.target p).2 < s.height ∧
      ((c.target p).1 : Int) = c.dx + p.1 ∧ ((c.target p).2 : Int) = c.dy + p.2 := by
  obtain ⟨-, -, hdx, hw, -, -, -, hdy, hh, -⟩ := clip_inside _ _ _ _ _ _ hdeg
  obtain ⟨hx, hy⟩ := mem_pixels.1 hp
  simp only [Clip.target, State.imageClip] at *
  omega

/-- A visible pixel has its source in the image, at its place from the clip's offset (43 R165). -/
theorem source_of_mem_pixels {s : State} {img : ImageRec} {dx0 dy0 : Int} {p : Nat × Nat}
    (hdeg : (s.imageClip img dx0 dy0).degenerate = false) (hp : p ∈ (s.imageClip img dx0 dy0).pixels) :
    let c := s.imageClip img dx0 dy0
    (c.source p).1 < img.width.toNat ∧ (c.source p).2 < img.height.toNat ∧
      ((c.source p).1 : Int) = c.sx + p.1 ∧ ((c.source p).2 : Int) = c.sy + p.2 := by
  obtain ⟨hsx, hw, -, -, -, hsy, hh, -⟩ := clip_inside _ _ _ _ _ _ hdeg
  obtain ⟨hx, hy⟩ := mem_pixels.1 hp
  simp only [Clip.source, State.imageClip] at *
  omega

/-- Settles O27: the bounds of `clip_inside` at each visible position, which `rowMajor` lists once and in order. -/
theorem clipBounds : Obligations.ClipBounds := by
  intro s img dx0 dy0 c hdeg
  refine ⟨fun p => mem_pixels, fun p hp => ?_, fun p q h => target_injective c h, nodup_rowMajor _ _,
    sorted_rowMajor _ _⟩
  obtain ⟨htx, hty, htx', hty'⟩ := target_of_mem_pixels hdeg hp
  obtain ⟨hsx, hsy, hsx', hsy'⟩ := source_of_mem_pixels hdeg hp
  exact ⟨htx, hty, hsx, hsy, htx', hty', hsx', hsy'⟩

/-! ### The pixel decoders -/

/-- The low byte of a pixel word, which Bitmap1 and Palette8 look at, as a number. -/
theorem lowByte_toNat (p : Word) : (field p 0 8).toNat = p.toNat % 256 := by
  simp [field_toNat]

theorem decodeTrueColor_eq (p : Word) : decodeTrueColor p =
    ⟨BitVec.ofNat 8 p.toNat, BitVec.ofNat 8 (p.toNat / 256), BitVec.ofNat 8 (p.toNat / 65536)⟩ := by
  rw [decodeTrueColor, unpack24_eq]
  rfl

theorem decodeBitmap1_eq (p : Word) :
    decodeBitmap1 p = if p.toNat % 256 = 0 then ⟨0, 0, 0⟩ else ⟨255, 255, 255⟩ := by
  have hzero : field p 0 8 = 0 ↔ p.toNat % 256 = 0 := by
    rw [← lowByte_toNat, BitVec.toNat_eq]
    rfl
  rw [decodeBitmap1, ite_not, if_congr hzero rfl rfl]
  rfl

/-- Settles O28: the decoders by arithmetic, and the format codes in the order the decoder tests them. -/
theorem trueColorAndBitmapDecode : Obligations.TrueColorAndBitmapDecode := by
  refine ⟨fun p => ⟨decodeTrueColor_eq p, decodeBitmap1_eq p⟩, fun s h img p xs ys => ⟨fun hf => ?_, fun hf => ?_,
    fun hf => ?_⟩⟩ <;> rw [decodePixel, hf] <;> rfl

/-- A read inside the palette of an unchanged image answers its byte (20 R64, 70 R262). -/
theorem getElem?_palRead {s : State} {h : Word} {img : ImageRec} {xs ys k : Nat} (hst : s.imageStable h = true)
    (hk : k < img.palette.length) : img.palette[k]? = some (s.palRead h img xs ys k) := by
  rw [State.palRead, if_pos hst, List.getD_eq_getElem _ _ hk, List.getElem?_eq_getElem hk]

/-- Settles O29: an entry below the palette length has all its three bytes in the palette. -/
theorem palette8Decode : Obligations.Palette8Decode := by
  intro s h img p xs ys hst k
  refine ⟨fun hout => ?_, fun hin => ?_⟩
  · rw [decodePalette8, lowByte_toNat]
    exact if_pos hout
  · have hlen : img.palette.length = img.palLen * 3 := img.palette_length
    have hbyte : ∀ j < 3, img.palette[k * 3 + j]? = some (s.palRead h img xs ys (k * 3 + j)) :=
      fun j hj => getElem?_palRead hst (by omega)
    refine ⟨_, _, _, hbyte 0 (by decide), hbyte 1 (by decide), hbyte 2 (by decide), ?_⟩
    rw [decodePalette8, lowByte_toNat]
    exact if_neg (Nat.not_le.2 hin)

/-- A read inside an unchanged image answers its pixel word (20 R64, 70 R262). -/
theorem pixRead_eq {s : State} {h : Word} {img : ImageRec} {x y : Nat} {w : Word} (hst : s.imageStable h = true)
    (hw : pixAt img x y = some w) : s.pixRead h img x y = w := by
  rw [State.pixRead, if_pos hst, hw, Option.getD_some]

theorem formatSupported_iff (f : BitVec 4) : formatSupported f = true ↔ f.toNat ≤ 2 := decide_eq_true_iff

/-! ### The plan of a SET_IMAGE -/

@[simp] theorem withClip_clip (p : Plan) (a b c : Word) : (p.withClip a b c).clip = some (a, b, c) := rfl

/-- On a surface a SET_IMAGE carries out its own plan (40 R123). -/
theorem exec_isSetImage {s : State} {i : Instr} {h : Word} {dx dy : Int} (hi : IsSetImage i h dx dy)
    (hc : s.constructed = true) : exec i s = .next (s.carryOut (planSetImage s h dx dy)) := by
  rw [exec_eq, planOf_isSetImage hi, onSurface_constructed s _ hc]

theorem planSetImage_missing {s : State} {h : Word} (hd : s.imgDesc h = none) (dx dy : Int) :
    planSetImage s h dx dy = Plan.raise [.imgDesc h] .badHandle h := by
  simp only [planSetImage, hd]

theorem planSetImage_degenerate {s : State} {h : Word} {dx dy : Int} {img : ImageRec} (hd : s.imgDesc h = some img)
    (hdeg : (s.imageClip img dx dy).degenerate = true) :
    planSetImage s h dx dy = (Plan.note s [.imgDesc h] .diagEmpty).withClip 0 0 0 := by
  simp only [planSetImage, hd]
  exact if_pos hdeg

theorem planSetImage_visible {s : State} {h : Word} {dx dy : Int} {img : ImageRec} (hd : s.imgDesc h = some img)
    (hdeg : (s.imageClip img dx dy).degenerate = false) :
    let c := s.imageClip img dx dy
    planSetImage s h dx dy = (planVisible s h img c).withClip c.srcWord c.dstWord c.sizeWord := by
  simp only [planSetImage, hd]
  exact if_neg (Bool.eq_false_iff.1 hdeg)

theorem planVisible_unsupported {img : ImageRec} (hf : 3 ≤ img.format.toNat) (s : State) (h : Word) (c : Clip) :
    planVisible s h img c = Plan.note s [.imgDesc h] .diagUnsupportedFormat := by
  refine if_neg ?_
  rw [formatSupported_iff]
  omega

theorem planVisible_done {s : State} {h : Word} {img : ImageRec} {c : Clip} {evs : List Event}
    (hf : img.format.toNat ≤ 2) (hloop : s.blitLoop h img c c.pixels = (evs, none)) :
    planVisible s h img c = Plan.done (.imgDesc h :: evs) := by
  rw [planVisible, if_pos ((formatSupported_iff _).2 hf), hloop]

theorem planVisible_stopped {s : State} {h : Word} {img : ImageRec} {c : Clip} {evs : List Event} {q : Nat × Nat}
    (hf : img.format.toNat ≤ 2) (hloop : s.blitLoop h img c c.pixels = (evs, some q)) :
    planVisible s h img c = Plan.raise (.imgDesc h :: evs) .paletteRange (halves q.2 q.1) := by
  rw [planVisible, if_pos ((formatSupported_iff _).2 hf), hloop]

/-! ### Blits that write nothing -/

/-- A plan whose only event is an ImgDesc and that writes no GEOM: no write, every cell and the surface as before. -/
theorem carryOut_imgDesc (s : State) {p : Plan} {h : Word} (hevs : p.events = [.imgDesc h]) (hg : p.geom = none) :
    Completed s (s.carryOut p) p.code p.info 0 ∧ EventsAppended s (s.carryOut p) [.imgDesc h] ∧
      CellsKept s (s.carryOut p) ∧ SurfaceKept s (s.carryOut p) ∧ OutsideKept s (s.carryOut p) := by
  obtain ⟨hdone, happ, hout, -, hgeom⟩ := carryOut_spec s p
  have hview : (s.carryOut p).view = s.view := by
    rw [carryOut_view, hevs]
    rfl
  rw [hevs] at hdone happ
  exact ⟨hdone, happ, cellsKept_of_view hview (hgeom hg).1, hgeom hg, hout⟩

/-- The CLIP_* registers after a plan that writes them. -/
theorem clipIs_carryOut_withClip (s : State) (p : Plan) (src dst size : Word) :
    ClipIs (s.carryOut (p.withClip src dst size)) src dst size := by
  simp [ClipIs]

/-- A plan that writes a visible clip's words shows the clip. -/
theorem clipShown_carryOut (s : State) (p : Plan) {img : ImageRec} {dx dy : Int}
    (hdeg : (s.imageClip img dx dy).degenerate = false) :
    let c := s.imageClip img dx dy
    ClipShown (s.carryOut (p.withClip c.srcWord c.dstWord c.sizeWord)) c := by
  obtain ⟨hsrc, hdst, hsize⟩ := clipIs_carryOut_withClip s p (s.imageClip img dx dy).srcWord
    (s.imageClip img dx dy).dstWord (s.imageClip img dx dy).sizeWord
  exact clipShown_of_words s _ img dx dy hdeg hsrc hdst hsize

/-- Settles O36: the plan raises after the ImgDesc event alone, with no clip. -/
theorem missingImageIsBadHandle : Obligations.MissingImageIsBadHandle := by
  intro s i h dx dy hi hc hd
  obtain ⟨hdone, hevs, hcells, hsurf, hout⟩ := carryOut_imgDesc s (p := Plan.raise [.imgDesc h] .badHandle h) rfl rfl
  obtain ⟨-, -, -, hclip, -⟩ := carryOut_spec s (Plan.raise [.imgDesc h] .badHandle h)
  refine ⟨_, ?_, hdone, hevs, hcells, hclip rfl, hsurf, hout⟩
  rw [exec_isSetImage hi hc, planSetImage_missing hd]

/-- Settles O34: the plan notes DIAG_EMPTY after the ImgDesc event alone and writes 0 to CLIP_*. -/
theorem degenerateBlitWritesNothing : Obligations.DegenerateBlitWritesNothing := by
  intro s i h dx dy img hi hc hd hempty
  have hdeg : (s.imageClip img dx dy).degenerate = true := by
    rw [← Bool.not_eq_false, degenerate_eq_false_iff]
    omega
  obtain ⟨hdone, hevs, hcells, hsurf, hout⟩ :=
    carryOut_imgDesc s (p := (Plan.note s [.imgDesc h] .diagEmpty).withClip 0 0 0) rfl rfl
  refine ⟨_, ?_, hdone, hevs, hcells, clipIs_carryOut_withClip s _ 0 0 0, hsurf, hout⟩
  rw [exec_isSetImage hi hc, planSetImage_degenerate hd hdeg]

/-- Settles O35: the plan notes DIAG_UNSUPPORTED_FORMAT after the ImgDesc event alone and writes the clip. -/
theorem unsupportedFormatWritesNothing : Obligations.UnsupportedFormatWritesNothing := by
  intro s i h dx dy img hi hc hd hf hw hh
  have hdeg := (degenerate_eq_false_iff (s.imageClip img dx dy)).2 ⟨hw, hh⟩
  obtain ⟨hdone, hevs, hcells, hsurf, hout⟩ :=
    carryOut_imgDesc s (p := (Plan.note s [.imgDesc h] .diagUnsupportedFormat).withClip _ _ _) rfl rfl
  refine ⟨_, ?_, hdone, hevs, hcells, clipShown_carryOut s _ hdeg, hsurf, hout⟩
  rw [exec_isSetImage hi hc, planSetImage_visible hd hdeg, planVisible_unsupported hf]

/-! ### The cells after a plan of single-cell writes -/

/-- A plan that writes only single cells of the surface, and no GEOM. -/
structure Plan.WritesCells (s : State) (p : Plan) : Prop where
  geom : p.geom = none
  kind : ∀ e ∈ p.events, e.isCellOrRead = true
  inside : FbSetsInside s.width s.height p.events

theorem mem_writtenCells {evs : List Event} {x y : Nat} : (x, y) ∈ writtenCells evs ↔ ∃ c, .fbSet x y c ∈ evs := by
  rw [writtenCells, List.mem_filterMap]
  constructor
  · rintro ⟨e, he, hxy⟩
    cases e with
    | fbSet x' y' c =>
      cases hxy
      exact ⟨c, he⟩
    | _ => cases hxy
  · rintro ⟨c, hc⟩
    exact ⟨_, hc, rfl⟩

/-- WCOUNT counts the written cells (10 R35). -/
theorem length_writtenCells (evs : List Event) : (writtenCells evs).length = fbSets evs := by
  induction evs with
  | nil => rfl
  | cons e evs ih =>
    have hone : (writtenCells [e]).length = fbSets [e] := by cases e <;> rfl
    rw [fbSets_cons, ← ih, ← hone, ← List.length_append, ← writtenCells_append]
    rfl

/-- Outside the surface there is no cell (10 R40). -/
theorem fb_outside {s : State} {x y : Nat} (h : ¬ (x < s.width ∧ y < s.height)) : s.fb x y = none := by
  unfold State.fb
  split
  · rfl
  · exact if_neg h

/-- Every cell that such a plan does not write reads as before. -/
theorem cellsKeptBut_carryOut {s : State} {p : Plan} {v : View} (hv : s.view = some v) (hwf : v.wf = true)
    (hp : Plan.WritesCells s p) : CellsKeptBut s (s.carryOut p) (writtenCells p.events) := by
  intro x y hxy
  have hgeom : (s.carryOut p).geom = s.geom := by rw [carryOut_geom, hp.geom, Option.getD_none]
  by_cases hin : x < s.width ∧ y < s.height
  · have hlast : lastSet x y p.events = none :=
      lastSet_none x y _ fun c hc => hxy (mem_writtenCells.2 ⟨c, hc⟩)
    rw [fb_carryOut hv hwf hp.geom hp.kind hp.inside hin.1 hin.2, hlast, State.fb, hv]
    exact (if_pos hin).symm
  · rw [fb_outside hin, fb_outside]
    rwa [State.width, State.height, hgeom]

/-- A cell that such a plan writes with one color only holds it afterwards. -/
theorem fb_carryOut_written {s : State} {p : Plan} {v : View} (hv : s.view = some v) (hwf : v.wf = true)
    (hp : Plan.WritesCells s p) {x y : Nat} {c : RGB} (hm : .fbSet x y c ∈ p.events)
    (hu : ∀ c', .fbSet x y c' ∈ p.events → c' = c) : (s.carryOut p).fb x y = some c := by
  obtain ⟨hx, hy⟩ := hp.inside x y c hm
  rw [fb_carryOut hv hwf hp.geom hp.kind hp.inside hx hy, lastSet_some x y c _ hm hu, Option.getD_some]

/-- SET_IMAGE writes only single cells of the surface (43 R165, R170). -/
theorem planSetImage_writesCells (s : State) (h : Word) (dx dy : Int) :
    Plan.WritesCells s (planSetImage s h dx dy) where
  geom := by
    cases hd : s.imgDesc h with
    | none => exact (planSetImage_plain s h dx dy hd).geom_none
    | some img =>
      obtain ⟨p, _, _, _, hp, he⟩ := planSetImage_withClip s h dx dy img hd
      exact he ▸ hp.geom_none
  kind := fun e he => by
    obtain ⟨hallowed, -⟩ := events_setImage (i := .setImageOff h dx dy) (Or.inl rfl) e he
    cases e with
    | fbFill c => cases hallowed
    | fbClear => cases hallowed
    | surfAlloc rows chain a => cases hallowed
    | surfRelease => cases hallowed
    | _ => rfl
  inside := fun x y c he => by
    obtain ⟨-, hin, -⟩ := events_setImage (i := .setImageOff h dx dy) (Or.inl rfl) _ he
    exact hin x y c rfl

/-! ### What a blit draws -/

/-- The palette reads of a decoded pixel. -/
def Decoded.reads : Decoded → List Event
  | .color reads _ => reads
  | .outOfPalette => []

/-- The color of a decoded pixel, black for one outside the palette. -/
def Decoded.rgb : Decoded → RGB
  | .color _ c => c
  | .outOfPalette => RGB.black

theorem eq_color_of_ne {d : Decoded} (h : d ≠ .outOfPalette) : d = .color d.reads d.rgb := by
  cases d with
  | color reads c => rfl
  | outOfPalette => exact absurd rfl h

/-- The palette reads of visible pixel `p`. -/
def State.blitReads (s : State) (h : Word) (img : ImageRec) (c : Clip) (p : Nat × Nat) : List Event :=
  (s.decodeAt h img (c.source p)).reads

/-- The color of visible pixel `p`. -/
def State.blitColor (s : State) (h : Word) (img : ImageRec) (c : Clip) (p : Nat × Nat) : RGB :=
  (s.decodeAt h img (c.source p)).rgb

/-- The events of drawing the pixels `ps`. -/
def State.drawEvents (s : State) (h : Word) (img : ImageRec) (c : Clip) (ps : List (Nat × Nat)) : List Event :=
  blitEvents h c (s.blitReads h img c) (s.blitColor h img c) ps

section
variable {s : State} {h : Word} {img : ImageRec} {c : Clip} {ps : List (Nat × Nat)}

/-- The loop over pixels that all decode draws them. -/
theorem imgDesc_cons_blitLoop (hall : ∀ p ∈ ps, s.decodeAt h img (c.source p) ≠ .outOfPalette) :
    .imgDesc h :: (s.blitLoop h img c ps).1 = s.drawEvents h img c ps :=
  blitLoop_events s h img c _ _ ps fun p hp => eq_color_of_ne (hall p hp)

theorem writtenCells_drawEvents (hall : ∀ p ∈ ps, s.decodeAt h img (c.source p) ≠ .outOfPalette) :
    writtenCells (s.drawEvents h img c ps) = ps.map c.target := by
  rw [← imgDesc_cons_blitLoop hall, ← blitLoop_writtenCells s h img c ps hall]
  rfl

/-- A drawn pixel's destination is written with its color. -/
theorem fbSet_mem_drawEvents (hall : ∀ p ∈ ps, s.decodeAt h img (c.source p) ≠ .outOfPalette) {p : Nat × Nat}
    (hp : p ∈ ps) : .fbSet (c.target p).1 (c.target p).2 (s.blitColor h img c p) ∈ s.drawEvents h img c ps := by
  obtain ⟨reads, rgb, hd, hm⟩ := blitLoop_writes s h img c ps hall p hp
  rw [← imgDesc_cons_blitLoop hall, State.blitColor, hd]
  exact List.mem_cons_of_mem _ hm

/-- The destination of a pixel is written with no other color than the pixel's own (43 R165). -/
theorem color_of_fbSet_mem_drawEvents (hall : ∀ p ∈ ps, s.decodeAt h img (c.source p) ≠ .outOfPalette)
    {p : Nat × Nat} {col : RGB} (hm : .fbSet (c.target p).1 (c.target p).2 col ∈ s.drawEvents h img c ps) :
    col = s.blitColor h img c p := by
  rw [← imgDesc_cons_blitLoop hall] at hm
  have hloop : .fbSet (c.target p).1 (c.target p).2 col ∈ (s.blitLoop h img c ps).1 := by simpa using hm
  obtain ⟨q, -, hq | ⟨reads, rgb, hd, hr | hq⟩⟩ := blitLoop_mem s h img c ps _ hloop
  · cases hq
  · obtain ⟨k, hk, -⟩ := decodeAt_reads s h img _ _ _ hd _ hr
    cases hk
  · obtain ⟨hx, hy, rfl⟩ := Event.fbSet.inj hq
    rw [target_injective c (Prod.ext hx hy), State.blitColor, hd]
    rfl

end

/-- A SET_IMAGE whose plan draws the pixels `ps`, all of which decode, and then only reads: each destination holds its
pixel's color, every other cell stays, and WCOUNT counts the pixels. -/
theorem carryOut_draws {s : State} {h : Word} {img : ImageRec} {c : Clip} {dx dy : Int} {p : Plan}
    {ps : List (Nat × Nat)} {tail : List Event} (hi : s.inv = true) (hc : s.constructed = true)
    (hplan : planSetImage s h dx dy = p) (hall : ∀ q ∈ ps, s.decodeAt h img (c.source q) ≠ .outOfPalette)
    (hevs : p.events = s.drawEvents h img c ps ++ tail) (htail : ∀ e ∈ tail, e.isFbSet = false) :
    Completed s (s.carryOut p) p.code p.info ps.length ∧
      (∀ q ∈ ps, (s.carryOut p).fb (c.target q).1 (c.target q).2 = some (s.blitColor h img c q)) ∧
      CellsKeptBut s (s.carryOut p) (ps.map c.target) := by
  obtain ⟨v, hv, hwf, -⟩ := view_of_inv hi hc
  have hw : Plan.WritesCells s p := hplan ▸ planSetImage_writesCells s h dx dy
  have hcells : writtenCells p.events = ps.map c.target := by
    rw [hevs, writtenCells_append, writtenCells_none tail htail, List.append_nil, writtenCells_drawEvents hall]
  have hdrawn : ∀ {x y col}, .fbSet x y col ∈ p.events → .fbSet x y col ∈ s.drawEvents h img c ps := by
    intro x y col hm
    rw [hevs, List.mem_append] at hm
    refine hm.resolve_right fun ht => ?_
    cases htail _ ht
  refine ⟨?_, fun q hq => ?_, ?_⟩
  · obtain ⟨hdone, -⟩ := carryOut_spec s p
    rwa [← length_writtenCells, hcells, List.length_map] at hdone
  · refine fb_carryOut_written hv hwf hw ?_ fun col hm => color_of_fbSet_mem_drawEvents hall (hdrawn hm)
    rw [hevs]
    exact List.mem_append_left _ (fbSet_mem_drawEvents hall hq)
  · rw [← hcells]
    exact cellsKeptBut_carryOut hv hwf hw

/-- A visible pixel of an unchanged image has its word in the image, and decodes as this word (20 R64, 70 R262). -/
theorem decodeAt_of_stable {s : State} {h : Word} {img : ImageRec} {q : Nat × Nat} (hst : s.imageStable h = true)
    (hx : q.1 < img.width.toNat) (hy : q.2 < img.height.toNat) :
    ∃ w, pixAt img q.1 q.2 = some w ∧ decodePixel s h img w q.1 q.2 = s.decodeAt h img q := by
  obtain ⟨w, hw⟩ := pixAt_covers img q.1 q.2 hx hy
  exact ⟨w, hw, by rw [State.decodeAt, pixRead_eq hst hw]⟩

/-- Settles O32: the loop runs to its end and draws every visible pixel. -/
theorem setImageDrawsTheVisiblePixels : Obligations.SetImageDrawsTheVisiblePixels := by
  intro s i h dx dy img hi hinv hc hd hf hdeg hall c
  have hloop : s.blitLoop h img c c.pixels = ((s.blitLoop h img c c.pixels).1, none) :=
    Prod.ext rfl (blitLoop_all s h img c c.pixels hall)
  have hplan := planSetImage_visible hd hdeg
  dsimp only at hplan
  rw [planVisible_done hf hloop, imgDesc_cons_blitLoop hall] at hplan
  obtain ⟨hdone, hdrawn, hkept⟩ :=
    carryOut_draws (tail := []) hinv hc hplan hall (List.append_nil _).symm (by simp)
  obtain ⟨-, happ, hout, -, hsurf⟩ := carryOut_spec s
    ((Plan.done (s.drawEvents h img c c.pixels)).withClip c.srcWord c.dstWord c.sizeWord)
  refine ⟨_, s.blitReads h img c, s.blitColor h img c, ?_, ?_, happ, writtenCells_drawEvents hall,
    fun p hp => ?_, hkept, clipShown_carryOut s _ hdeg, hsurf rfl, hout⟩
  · rw [exec_isSetImage hi hc, hplan]
  · rw [← length_rowMajor]
    exact hdone
  · have hcolor := eq_color_of_ne (hall p hp)
    refine ⟨hcolor, hdrawn p hp, fun hst => ?_⟩
    obtain ⟨hx, hy, -⟩ := source_of_mem_pixels hdeg hp
    obtain ⟨w, hw, hdec⟩ := decodeAt_of_stable hst hx hy
    exact ⟨w, hw, hdec.trans hcolor⟩

/-- Settles O33: the loop draws the pixels before `p`, reads `p` and ends there. -/
theorem paletteRangeStopsTheBlit : Obligations.PaletteRangeStopsTheBlit := by
  intro s i h dx dy img before after p hi hinv hc hd hf hdeg hsplit hall hp c
  have hstop := blitLoop_stop s h img c before after p hall hp
  rw [← hsplit] at hstop
  have hplan := planSetImage_visible hd hdeg
  dsimp only at hplan
  rw [planVisible_stopped (by rw [hf]; decide) hstop, ← List.cons_append, imgDesc_cons_blitLoop hall] at hplan
  obtain ⟨hdone, hdrawn, hkept⟩ := carryOut_draws hinv hc hplan hall rfl (by simp [Event.isFbSet])
  obtain ⟨-, happ, hout, -, hsurf⟩ := carryOut_spec s
    ((Plan.raise (s.drawEvents h img c before ++ [.pixRead h (c.source p).1 (c.source p).2]) .paletteRange
      (halves (c.source p).2 (c.source p).1)).withClip c.srcWord c.dstWord c.sizeWord)
  refine ⟨_, halves (c.source p).2 (c.source p).1, s.blitReads h img c, s.blitColor h img c, ?_, ?_, hdone, happ,
    writtenCells_drawEvents hall, fun q hq => ⟨eq_color_of_ne (hall q hq), hdrawn q hq⟩, hkept,
    clipShown_carryOut s _ hdeg, hsurf rfl, hout⟩
  · rw [exec_isSetImage hi hc, hplan]
  · obtain ⟨hx, hy, -⟩ := source_of_mem_pixels (p := p) hdeg (by simp [hsplit])
    exact halves_fit _ _ (hy.trans img.height.isLt) (hx.trans img.width.isLt)

end Sys2Proof.Machine

/-! PROOFS. The surface commands: CLEAR, the fills, SET_PIXEL, SET_PWM_BITS and CONSTRUCT, each by its plan, and that
the geometry stays until a reset. -/

namespace Sys2Proof.Machine

/-! ### Plans that write neither CLIP_* nor GEOM -/

/-- What carrying out a plan does that only completes. -/
theorem Plan.Plain.carryOut {s : State} {p : Plan} (hp : Plan.Plain s p) :
    Completed s (s.carryOut p) p.code p.info (fbSets p.events) ∧ EventsAppended s (s.carryOut p) p.events ∧
      ClipKept s (s.carryOut p) ∧ SurfaceKept s (s.carryOut p) ∧ OutsideKept s (s.carryOut p) := by
  obtain ⟨hdone, hevs, hout, hclip, hgeom⟩ := carryOut_spec s p
  exact ⟨hdone, hevs, hclip hp.clip_none, hgeom hp.geom_none, hout⟩

/-- Such a plan keeps every cell where its events leave the view as it was. -/
theorem Plan.Plain.carryOut_cellsKept {s : State} {p : Plan} (hp : Plan.Plain s p)
    (hview : p.events.foldl (viewAfter s.latch.index) s.view = s.view) : CellsKept s (s.carryOut p) := by
  obtain ⟨-, -, -, ⟨hgeom, -⟩, -⟩ := hp.carryOut
  exact cellsKept_of_view ((carryOut_view s p).trans hview) hgeom

/-! ### CLEAR and the fills -/

/-- The event gives every cell the color `c` (45 R212). -/
def Event.Paints (e : Event) (c : RGB) : Prop := e = .fbFill c ∨ (e = .fbClear ∧ c = RGB.black)

theorem Event.Paints.viewAfter {e : Event} {c : RGB} (he : e.Paints c) (d : Nat) (ov : Option View) :
    viewAfter d ov e = ov.map fun _ => View.filled c := by
  rcases he with rfl | ⟨rfl, rfl⟩ <;> rfl

/-- WCOUNT does not count a fill or a clear (44 R193). -/
theorem Event.Paints.fbSets {e : Event} {c : RGB} (he : e.Paints c) : fbSets [e] = 0 := by
  rcases he with rfl | ⟨rfl, rfl⟩ <;> rfl

/-- Every cell of a uniform view has its color. -/
theorem fb_of_filled {s : State} {c : RGB} (hv : s.view = some (View.filled c)) {x y : Nat} (hx : x < s.width)
    (hy : y < s.height) : s.fb x y = some c := by
  rw [State.fb, hv]
  exact if_pos ⟨hx, hy⟩

/-- A command whose plan is one painting event colors every cell and keeps everything else (44 R190, R193). -/
theorem exec_paints {s : State} {i : Instr} {e : Event} {c : RGB} (he : e.Paints c)
    (hplan : planOf i s = Plan.onSurface s (Plan.done [e])) (hi : s.inv = true) (hc : s.constructed = true) :
    ∃ t, exec i s = .next t ∧ Completed s t .ok 0 0 ∧ EventsAppended s t [e] ∧
      (∀ x y, x < s.width → y < s.height → t.fb x y = some c) ∧
      ClipKept s t ∧ SurfaceKept s t ∧ OutsideKept s t := by
  obtain ⟨v, hv, -⟩ := view_of_inv hi hc
  obtain ⟨hdone, hevs, hclip, hsurf, hout⟩ := (Plan.Plain.done (s := s) [e]).carryOut
  have hfilled : (s.carryOut (Plan.done [e])).view = some (View.filled c) := by
    rw [carryOut_view, hv]
    exact he.viewAfter _ _
  refine ⟨_, ?_, ?_, hevs, fun x y hx hy => fb_of_filled hfilled ?_ ?_, hclip, hsurf, hout⟩
  · rw [exec_eq, hplan, onSurface_constructed s _ hc]
  · rw [← he.fbSets]
    exact hdone
  · rwa [State.width, hsurf.1]
  · rwa [State.height, hsurf.1]

/-- Settles O40: CLEAR's one event paints black. -/
theorem clearBlackensEveryCell : Obligations.ClearBlackensEveryCell :=
  fun _ hi hc => exec_paints (Or.inr ⟨rfl, rfl⟩) rfl hi hc

/-- Settles O41: the one event of both fills paints their color. -/
theorem fillColorsEveryCell : Obligations.FillColorsEveryCell := by
  intro s i c hfill hi hc
  have hplan : planOf i s = Plan.onSurface s (planFill c) := by
    rcases hfill with ⟨w, rfl, rfl⟩ | rfl
    · rw [← unpack24_eq]
      rfl
    · rfl
  exact exec_paints (Or.inl rfl) hplan hi hc

/-- CLEAR and the fills paint, on any surface with the same event and color (44 R190, R193). -/
theorem planOf_clear_or_fill {i : Instr} (hi : i = .clear ∨ (∃ c, i = .fillP c) ∨ (∃ r g b, i = .fillRgb r g b)) :
    ∃ e c, Event.Paints e c ∧ ∀ s, planOf i s = Plan.onSurface s (Plan.done [e]) := by
  rcases hi with rfl | ⟨w, rfl⟩ | ⟨r, g, b, rfl⟩
  · exact ⟨.fbClear, RGB.black, Or.inr ⟨rfl, rfl⟩, fun _ => rfl⟩
  · exact ⟨.fbFill (unpack24 w), unpack24 w, Or.inl rfl, fun _ => rfl⟩
  · exact ⟨.fbFill ⟨r, g, b⟩, ⟨r, g, b⟩, Or.inl rfl, fun _ => rfl⟩

/-- The view after a painting command: uniform where there is a surface, and untouched without one (40 R123). -/
theorem carryOut_onSurface_paints_view {e : Event} {c : RGB} (he : e.Paints c) (s : State) :
    (s.carryOut (Plan.onSurface s (Plan.done [e]))).view =
      if s.constructed then s.view.map fun _ => View.filled c else s.view := by
  rw [carryOut_view]
  split_ifs with hc
  · rw [onSurface_constructed s _ hc]
    exact he.viewAfter _ _
  · rw [onSurface_unconstructed s _ (Bool.not_eq_true _ ▸ hc)]
    rfl

/-- Settles O42: both commands paint with one color or, without a surface, neither does. -/
theorem secondClearOrFillChangesNoCell : Obligations.SecondClearOrFillChangesNoCell := by
  intro s t u i l hi ht hu
  obtain ⟨e, c, he, hplan⟩ := planOf_clear_or_fill hi
  rw [exec_eq, hplan] at ht hu
  cases ht
  cases hu
  have hplain : Plan.Plain s (Plan.onSurface s (Plan.done [e])) := (Plan.Plain.done _).onSurface
  obtain ⟨-, -, -, ⟨-, hkept⟩, -⟩ := hplain.carryOut
  rw [carryOut_onSurface_paints_view he]
  dsimp only
  rw [hkept, carryOut_onSurface_paints_view he]
  split_ifs
  · exact Option.map_map ..
  · rfl

/-! ### SET_PIXEL -/

/-- On a surface a SET_PIXEL carries out its own plan (40 R123). -/
theorem exec_isSetPixel {s : State} {i : Instr} {x y : Int} {c : RGB} (hi : IsSetPixel i x y c)
    (hc : s.constructed = true) : exec i s = .next (s.carryOut (planSetPixel s x y c)) := by
  rw [exec_eq, planOf_isSetPixel hi, onSurface_constructed s _ hc]

theorem inSurface_iff (s : State) (x y : Int) :
    s.inSurface x y = true ↔ 0 ≤ x ∧ x < s.width ∧ 0 ≤ y ∧ y < s.height := by
  simp only [State.inSurface, Bool.and_eq_true, decide_eq_true_eq, and_assoc]

theorem planSetPixel_inside {s : State} {x y : Nat} (hx : x < s.width) (hy : y < s.height) (c : RGB) :
    planSetPixel s x y c = Plan.done [.fbSet x y c] :=
  if_pos ((inSurface_iff s x y).2 (by omega))

theorem planSetPixel_outside {s : State} {x y : Int} (h : ¬(0 ≤ x ∧ x < s.width ∧ 0 ≤ y ∧ y < s.height)) (c : RGB) :
    planSetPixel s x y c = planOutOfRange s x y :=
  if_neg (mt (inSurface_iff s x y).1 h)

/-- One FbSet on the surface writes only that cell (45 R215). -/
theorem fbSet_writesCells {s : State} {x y : Nat} (hx : x < s.width) (hy : y < s.height) (c : RGB) :
    Plan.WritesCells s (Plan.done [.fbSet x y c]) where
  geom := rfl
  kind := List.forall_mem_singleton.2 rfl
  inside := fun i j d hm => by
    cases List.mem_singleton.1 hm
    exact ⟨hx, hy⟩

/-- Settles O44: the plan is one FbSet, which writes its cell and no other. -/
theorem setPixelSetsOneCell : Obligations.SetPixelSetsOneCell := by
  intro s i x y c hset hi hc hx hy
  obtain ⟨v, hv, hwf, -⟩ := view_of_inv hi hc
  have hw := fbSet_writesCells hx hy c
  obtain ⟨hdone, hevs, hclip, hsurf, hout⟩ := (Plan.Plain.done (s := s) [.fbSet x y c]).carryOut
  refine ⟨_, ?_, hdone, hevs, ?_, cellsKeptBut_carryOut hv hwf hw, hclip, hsurf, hout⟩
  · rw [exec_isSetPixel hset hc, planSetPixel_inside hx hy]
  · refine fb_carryOut_written hv hwf hw (List.mem_singleton_self _) fun d hd => ?_
    cases List.mem_singleton.1 hd
    rfl

theorem planOutOfRange_events (s : State) (x y : Int) : (planOutOfRange s x y).events = [] := by
  unfold planOutOfRange
  split_ifs <;> rfl

theorem planOutOfRange_code (s : State) (x y : Int) : (planOutOfRange s x y).code =
    if s.latch.ctrl.oorErr = true then .coordRange
    else if s.latch.ctrl.diagEn = true then .diagPixelDropped else .ok := by
  unfold planOutOfRange
  split_ifs with hoor hdiag
  · rfl
  · exact if_pos hdiag
  · exact if_neg hdiag

/-- COORD_RANGE names the low halves of both coordinates; a dropped pixel names nothing (44 R196). -/
theorem planOutOfRange_info (s : State) (x y : Int) : ((planOutOfRange s x y).info.toNat : Int) =
    if s.latch.ctrl.oorErr = true then y % 65536 * 65536 + x % 65536 else 0 := by
  unfold planOutOfRange
  split_ifs
  · exact halves_toNat y x
  · rfl

/-- Settles O45: outside the surface the plan has no event. -/
theorem outOfRangePixelIsNotForwarded : Obligations.OutOfRangePixelIsNotForwarded := by
  intro s i x y c hset hc hxy
  have hplain : Plan.Plain s (planOutOfRange s x y) := planSetPixel_outside hxy c ▸ planSetPixel_plain s x y c
  have hnone := planOutOfRange_events s x y
  obtain ⟨hdone, hevs, hclip, hsurf, hout⟩ := hplain.carryOut
  rw [planOutOfRange_code, hnone] at hdone
  rw [hnone] at hevs
  have hcells := hplain.carryOut_cellsKept (by rw [hnone]; rfl)
  refine ⟨_, _, ?_, planOutOfRange_info s x y, hdone, hevs, hcells, hclip, hsurf, hout⟩
  rw [exec_isSetPixel hset hc, planSetPixel_outside hxy]

/-! ### SET_PWM_BITS -/

/-- Settles O46: FbDepth leaves the view alone. -/
theorem setPwmBitsOnlyPassesTheDepth : Obligations.SetPwmBitsOnlyPassesTheDepth := by
  intro s n hc
  have hplain : Plan.Plain s (Plan.done [.fbDepth n]) := .done _
  obtain ⟨hdone, hevs, hclip, hsurf, hout⟩ := hplain.carryOut
  refine ⟨_, ?_, hdone, hevs, hplain.carryOut_cellsKept rfl, hclip, hsurf, hout⟩
  rw [exec_eq, planOf, onSurface_constructed s _ hc]

/-! ### CONSTRUCT -/

section
variable {s : State} {rows chain w h : Nat}

theorem planConstruct_again (hc : s.constructed = true) :
    planConstruct s rows chain = Plan.raise [] .constructFailed 1 :=
  if_pos hc

theorem planConstruct_refused (hc : s.constructed = false) (hg : s.surfaceGeometry rows chain = none) :
    planConstruct s rows chain = Plan.raise [.surfAlloc rows chain none] .constructFailed 2 := by
  simp only [planConstruct, hc, hg, Bool.false_eq_true, if_false]

theorem planConstruct_oversized (hc : s.constructed = false) (hg : s.surfaceGeometry rows chain = some (w, h))
    (hbig : 65536 ≤ w ∨ 65536 ≤ h) : planConstruct s rows chain =
      Plan.raise [.surfAlloc rows chain (some (w, h)), .surfRelease] .constructFailed 3 := by
  simp only [planConstruct, hc, hg, Bool.false_eq_true, if_false]
  exact if_pos hbig

theorem planConstruct_created (hc : s.constructed = false) (hg : s.surfaceGeometry rows chain = some (w, h))
    (hw : w < 65536) (hh : h < 65536) : planConstruct s rows chain = Plan.created rows chain w h := by
  have hfits : ¬(Config.dimBound ≤ w ∨ Config.dimBound ≤ h) := by
    unfold Config.dimBound
    omega
  simp only [planConstruct, hc, hg, Bool.false_eq_true, if_false]
  exact if_neg hfits

/-- GEOM = {h, w} after a CONSTRUCT that succeeds (44 R199, 10 R32). -/
theorem carryOut_created_geometry (s : State) (rows chain : Nat) (hw : w < 65536) (hh : h < 65536) :
    let t := s.carryOut (Plan.created rows chain w h)
    t.geom.toNat = h * 65536 + w ∧ t.width = w ∧ t.height = h := by
  have hgeom : (s.carryOut (Plan.created rows chain w h)).geom.toNat = h * 65536 + w := by
    rw [carryOut_geom, ← halves_fit h w hh hw]
    rfl
  refine ⟨hgeom, ?_, ?_⟩
  · rw [State.width, lowHalf_nat, hgeom]
    omega
  · rw [State.height, highHalf_nat, hgeom]
    omega

end

/-- Settles O47: the plan is `Plan.created`, whose SurfAlloc leaves a fresh view. -/
theorem constructCreatesTheSurface : Obligations.ConstructCreatesTheSurface := by
  intro s rows chain w h hc hg hw hh
  obtain ⟨hdone, hevs, hout, hclip, -⟩ := carryOut_spec s (Plan.created rows chain w h)
  obtain ⟨hgeom, hwidth, hheight⟩ := carryOut_created_geometry s rows chain hw hh
  have hfresh : (s.carryOut (Plan.created rows chain w h)).view = some (View.fresh s.latch.index) :=
    carryOut_view s _
  refine ⟨_, ?_, hdone, hevs, ?_, hgeom, hwidth, hheight, fun x y hx hy => ?_, hclip rfl, hout⟩
  · rw [exec_eq, planOf, planConstruct_created hc hg hw hh]
  · rw [carryOut_constructed]
    exact Bool.or_true _
  · rw [State.fb, hfresh, hwidth, hheight]
    exact if_pos ⟨hx, hy⟩

/-- A CONSTRUCT whose plan raises CONSTRUCT_FAILED after events that leave the view as it was (44 R200). -/
theorem exec_construct_fails {s : State} {rows chain : Nat} {evs : List Event} {info : Word}
    (hplan : planConstruct s rows chain = Plan.raise evs .constructFailed info)
    (hview : evs.foldl (viewAfter s.latch.index) s.view = s.view) :
    ∃ t, exec (.construct rows chain) s = .next t ∧ Completed s t .constructFailed info 0 ∧ EventsAppended s t evs ∧
      CellsKept s t ∧ ClipKept s t ∧ SurfaceKept s t ∧ OutsideKept s t := by
  have hplain : Plan.Plain s (Plan.raise evs .constructFailed info) := .raise _ _ _ rfl
  obtain ⟨hdone, hevs, hclip, hsurf, hout⟩ := hplain.carryOut
  have hcount := fbSets_planConstruct s rows chain
  rw [hplan] at hcount
  rw [hcount] at hdone
  refine ⟨_, ?_, hdone, hevs, hplain.carryOut_cellsKept hview, hclip, hsurf, hout⟩
  rw [exec_eq, planOf, hplan]

/-- Settles O48: each failure raises after its own events. A surface too large is released again, which leaves no view;
there was none before, since nothing was constructed. -/
theorem failedConstructChangesNoSurface : Obligations.FailedConstructChangesNoSurface := by
  intro s rows chain hi hfail
  cases hc : s.constructed with
  | true =>
    obtain ⟨t, hexec, hdone, hevs, hkept⟩ := exec_construct_fails (rows := rows) (chain := chain)
      (planConstruct_again hc) rfl
    exact ⟨t, [], hexec, by simpa using hdone, hevs, by simp, by simp, by simp, hkept⟩
  | false =>
    cases hg : s.surfaceGeometry rows chain with
    | none =>
      obtain ⟨t, hexec, hdone, hevs, hkept⟩ := exec_construct_fails (planConstruct_refused hc hg) rfl
      exact ⟨t, _, hexec, by simpa using hdone, hevs, by simp, fun _ _ => rfl, by simp, hkept⟩
    | some a =>
      obtain ⟨w, h⟩ := a
      have hbig : 65536 ≤ w ∨ 65536 ≤ h := (hfail.resolve_left (by simp [hc])) w h hg
      have hview := no_view_of_inv hi hc
      obtain ⟨t, hexec, hdone, hevs, hkept⟩ :=
        exec_construct_fails (planConstruct_oversized hc hg hbig) (by rw [hview]; rfl)
      exact ⟨t, _, hexec, by simpa using hdone, hevs, by simp, by simp, by simp, hkept⟩

/-! ### The geometry between resets -/

/-- On a surface no command writes GEOM (44 R198, R199). -/
theorem planOf_geom_none {s : State} (hc : s.constructed = true) (i : Instr) : (planOf i s).geom = none := by
  rcases planOf_shape s i with hp | ⟨_, _, _, _, _, _, p, _, _, _, hp, he⟩ | ⟨_, _, _, _, _, hfalse, _⟩
  · exact hp.geom_none
  · exact he ▸ hp.geom_none
  · rw [hc] at hfalse
    cases hfalse

theorem latchedPlan_geom_none {s : State} (hc : s.constructed = true) : (latchedPlan s).geom = none := by
  unfold latchedPlan
  cases decode s.latch.cmd s.latch.args with
  | illegal => rfl
  | malformed op => exact (planMalformed_plain s op).geom_none
  | form i => exact planOf_geom_none hc i

theorem engineTurn_surfaceKept {s t : State} (hc : s.constructed = true) (h : s.engineTurn = .next t) :
    SurfaceKept s t := by
  rw [engineTurn_eq] at h
  cases h
  split_ifs
  · obtain ⟨-, -, -, -, hsurf⟩ := carryOut_spec s (latchedPlan s)
    exact hsurf (latchedPlan_geom_none hc)
  · exact ⟨rfl, rfl⟩

/-- No host write reaches GEOM or `constructed` (10 R32, R45). -/
theorem writeReg_surfaceKept (s : State) (off : Nat) (v : Word) : SurfaceKept s (s.writeReg off v) := by
  by_cases h : off = 0
  · subst h
    unfold State.writeReg State.writeCmd
    split_ifs <;> exact ⟨rfl, rfl⟩
  · obtain ⟨a, e, o, c, hw⟩ := writeReg_not_cmd s off v h
    rw [hw]
    exact ⟨rfl, rfl⟩

theorem pollStatus_surfaceKept (s : State) : SurfaceKept s s.pollStatus := by
  unfold State.pollStatus
  split_ifs <;> exact ⟨rfl, rfl⟩

/-- Settles O58: on a surface the engine's turn writes no GEOM, and no other action but a reset reaches it. -/
theorem geometryIsFixedUntilReset : Obligations.GeometryIsFixedUntilReset := by
  intro s t e hc hreset h
  cases e with
  | read width off =>
    simp only [applyInput] at h
    split_ifs at h
    cases h
    exact ⟨rfl, rfl⟩
  | write width off v =>
    simp only [applyInput] at h
    split_ifs at h
    cases h
    exact writeReg_surfaceKept s off v
  | poll =>
    cases h
    exact pollStatus_surfaceKept s
  | engine => exact engineTurn_surfaceKept hc h
  | engineWithStatusWrite v => exact engineTurn_surfaceKept (s := s.writeStatus v) hc h
  | reset n => exact absurd rfl (hreset n)
  | setImage h' r =>
    cases h
    exact ⟨rfl, rfl⟩
  | setBuffer h' b =>
    cases h
    exact ⟨rfl, rfl⟩
  | foreignSurfaceWrite x y c => cases h

end Sys2Proof.Machine

/-! PROOFS. The write arbiter: whose the turn's events are, what reaches the write port without a surface, and that the
view follows the events. -/

namespace Sys2Proof.Machine

/-! ### The events of a turn -/

/-- An event that the turn appends is one of the latched form's plan, which the turn carried out. -/
theorem turn_event {s t : State} {evs : List Event} {e : Event} (h : s.engineTurn = .next t)
    (hevs : EventsAppended s t evs) (he : e ∈ evs) :
    ∃ i, s.latch.valid = true ∧ decode s.latch.cmd s.latch.args = .form i ∧ t = s.carryOut (planOf i s) ∧
      e ∈ (planOf i s).events := by
  rcases turn_cases h hevs with ⟨hv, rfl, rfl⟩ | ⟨-, -, rfl⟩
  · obtain ⟨i, hd, hplan, -⟩ := latched_events s e he
    rw [hplan] at he ⊢
    exact ⟨i, hv, hd, rfl, he⟩
  · cases he

/-- The form in the valid latch has its requester granted (45 R211). -/
theorem grant_form {s : State} {i : Instr} (hv : s.latch.valid = true)
    (hd : decode s.latch.cmd s.latch.args = .form i) : s.grant = some (requesterOf i) := by
  rw [State.grant, hv, hd]

/-- Settles O49: the event is its form's, and every write of a form's plan is on the surface by `EventOk`. -/
theorem everyFbSetIsOnTheSurface : Obligations.EveryFbSetIsOnTheSurface := by
  intro s t evs x y c h hevs he
  obtain ⟨i, -, -, -, hplan⟩ := turn_event h hevs he
  obtain ⟨-, hinside, -⟩ := planOf_events s i _ hplan
  exact hinside x y c rfl

/-- Settles O50: the event is its form's, which the valid latch holds. -/
theorem eventsComeFromTheGrantedForm : Obligations.EventsComeFromTheGrantedForm := by
  intro s t evs e h hevs he
  obtain ⟨i, hv, hd, -, hplan⟩ := turn_event h hevs he
  obtain ⟨hallowed, -⟩ := planOf_events s i e hplan
  exact ⟨i, hd, grant_form hv hd, hallowed⟩

/-! ### The write port without a surface -/

/-- A CONSTRUCT asks for a surface, and releases one only where it was too large (44 R198). -/
theorem mem_planConstruct_events {s : State} {rows chain : Nat} {e : Event}
    (he : e ∈ (planConstruct s rows chain).events) :
    (∃ a, e = .surfAlloc rows chain a) ∨
      (e = .surfRelease ∧ (planConstruct s rows chain).code = .constructFailed ∧
        (planConstruct s rows chain).info = 3) := by
  cases hc : s.constructed with
  | true =>
    rw [planConstruct_again hc] at he
    cases he
  | false =>
    cases hg : s.surfaceGeometry rows chain with
    | none =>
      rw [planConstruct_refused hc hg] at he
      exact Or.inl ⟨none, List.mem_singleton.1 he⟩
    | some a =>
      obtain ⟨w, h⟩ := a
      by_cases hbig : 65536 ≤ w ∨ 65536 ≤ h
      · rw [planConstruct_oversized hc hg hbig] at he ⊢
        rcases List.mem_cons.1 he with he | he
        · exact Or.inl ⟨some (w, h), he⟩
        · exact Or.inr ⟨List.mem_singleton.1 he, rfl, rfl⟩
      · rw [planConstruct_created hc hg (by omega) (by omega)] at he
        exact Or.inl ⟨some (w, h), List.mem_singleton.1 he⟩

/-- Without a surface only CONSTRUCT has events (40 R123). -/
theorem construct_of_mem_planOf_events {s : State} {i : Instr} {e : Event} (hc : s.constructed = false)
    (he : e ∈ (planOf i s).events) : ∃ rows chain, i = .construct rows chain := by
  by_contra hi
  rw [planOf_unconstructed (fun rows chain hcon => hi ⟨rows, chain, hcon⟩) hc] at he
  cases he

/-- A reset that lets none of the pending events happen, without a surface to release, adds nothing to the trace. -/
theorem resetBlock_trace_unconstructed {s : State} (hc : s.constructed = false) :
    (s.resetBlock 0).trace = s.trace := by
  simp [hc]

/-- Settles O51: without a surface every event of a turn is CONSTRUCT's. -/
theorem writePortIdleWhileNotConstructed : Obligations.WritePortIdleWhileNotConstructed := by
  refine fun s hc => ⟨fun t evs e h hevs he _ => ?_, fun t h => ?_⟩
  · obtain ⟨i, -, -, rfl, hplan⟩ := turn_event h hevs he
    obtain ⟨rows, chain, rfl⟩ := construct_of_mem_planOf_events hc hplan
    rw [carryOut_result, carryOut_faultInfo]
    exact (mem_planConstruct_events hplan).imp_left fun ⟨a, ha⟩ => ⟨rows, chain, a, ha⟩
  · cases h
    exact resetBlock_trace_unconstructed hc

/-! ### The view follows the events -/

/-- A read event does nothing to the view (45 R212). -/
theorem viewAfter_of_not_writeRequest {e : Event} (he : e.isWriteRequest = false) (d : Nat) (ov : Option View) :
    viewAfter d ov e = ov := by
  cases e with
  | imgDesc h => rfl
  | pixRead h x y => rfl
  | palRead h k => rfl
  | bufLen h => rfl
  | bufRead h k => rfl
  | _ => cases he

/-- Events without a write request leave the view as it was. -/
theorem viewAfter_fold_of_no_writeRequest {evs : List Event} (he : ∀ e ∈ evs, e.isWriteRequest = false) (d : Nat)
    (ov : Option View) : evs.foldl (viewAfter d) ov = ov := by
  induction evs with
  | nil => rfl
  | cons e evs ih =>
    obtain ⟨hhead, htail⟩ := List.forall_mem_cons.1 he
    rw [List.foldl_cons, viewAfter_of_not_writeRequest hhead, ih htail]

/-- The view after a turn is what the appended events, in order, make of the view before (45 R214). -/
theorem turn_view {s t : State} {evs : List Event} (h : s.engineTurn = .next t) (hevs : EventsAppended s t evs) :
    t.view = evs.foldl (viewAfter s.latch.index) s.view := by
  rcases turn_cases h hevs with ⟨-, rfl, rfl⟩ | ⟨-, rfl, rfl⟩
  · exact carryOut_view s _
  · rfl

/-- Settles O52. -/
theorem viewFollowsTheTrace : Obligations.ViewFollowsTheTrace := by
  intro s t evs _ h hevs
  have hview := turn_view h hevs
  exact ⟨hview, fun hreads => hview.trans (viewAfter_fold_of_no_writeRequest hreads _ _)⟩

end Sys2Proof.Machine

/-! PROOFS. The exceptions: what an illegal word completes with, and how far the selection of diagnostics reaches. -/

namespace Sys2Proof.Machine

/-! ### Illegal words -/

theorem latchedPlan_illegal {s : State} (h : decode s.latch.cmd s.latch.args = .illegal) :
    latchedPlan s = Plan.raise [] .illegalCmd s.latch.cmd := by
  rw [latchedPlan, h]

/-- Settles O8: the verdict is illegal whatever the argument words, and its plan only completes. -/
theorem illegalWordCompletesWithIllegalCmd : Obligations.IllegalWordCompletesWithIllegalCmd := by
  intro s hv hillegal
  have hplan := latchedPlan_illegal (decode_illegal hillegal s.latch.args)
  have hplain : Plan.Plain s (Plan.raise [] .illegalCmd s.latch.cmd) := .raise _ _ _ rfl
  obtain ⟨hdone, hevs, hclip, hsurf, hout⟩ := hplain.carryOut
  refine ⟨_, ?_, hdone, hevs, carryOut_view s _, hclip, hsurf, hout⟩
  rw [engineTurn_eq, if_pos hv, hplan]

/-! ### Diagnostics -/

/-- The state with another DIAG_EN in its latch. -/
def State.withDiagEn (s : State) (b : Bool) : State :=
  { s with latch := { s.latch with ctrl := { s.latch.ctrl with diagEn := b } } }

/-- A diagnostic is no error, and OK in its place is none either (60 R223). -/
theorem diag_isError {c : Result} (hc : c.isError = false) (s : State) : (s.diag c).isError = false := by
  unfold State.diag
  split_ifs
  · exact hc
  · rfl

/-- Two plans that differ at most in their codes, and there only by codes that are no errors. -/
structure Plan.SameButDiag (p q : Plan) : Prop where
  events : q.events = p.events
  info : q.info = p.info
  clip : q.clip = p.clip
  geom : q.geom = p.geom
  code : q.code = p.code ∨ (p.code.isError = false ∧ q.code.isError = false)

namespace Plan.SameButDiag

theorem refl (p : Plan) : Plan.SameButDiag p p := ⟨rfl, rfl, rfl, rfl, Or.inl rfl⟩

/-- The one place where DIAG_EN enters a plan (00 R16). -/
theorem note (s s' : State) (evs : List Event) {c : Result} (hc : c.isError = false) :
    Plan.SameButDiag (Plan.note s evs c) (Plan.note s' evs c) :=
  ⟨rfl, rfl, rfl, rfl, Or.inr ⟨diag_isError hc s, diag_isError hc s'⟩⟩

theorem withClip {p q : Plan} (h : Plan.SameButDiag p q) (src dst size : Word) :
    Plan.SameButDiag (p.withClip src dst size) (q.withClip src dst size) :=
  ⟨h.events, h.info, rfl, h.geom, h.code⟩

theorem onSurface {p q : Plan} (h : Plan.SameButDiag p q) {s s' : State} (hc : s'.constructed = s.constructed) :
    Plan.SameButDiag (Plan.onSurface s p) (Plan.onSurface s' q) := by
  unfold Plan.onSurface
  rw [hc]
  split_ifs
  · exact h
  · exact refl _

theorem isError {p q : Plan} (h : Plan.SameButDiag p q) : q.code.isError = p.code.isError := by
  rcases h.code with he | ⟨hp, hq⟩
  · rw [he]
  · rw [hp, hq]

end Plan.SameButDiag

/-- DIAG_EN shows in a SET_PIXEL outside the surface, as PIXEL_DROPPED (44 R196). -/
theorem planSetPixel_withDiagEn (s : State) (b : Bool) (x y : Int) (c : RGB) :
    Plan.SameButDiag (planSetPixel s x y c) (planSetPixel (s.withDiagEn b) x y c) := by
  have hin : (s.withDiagEn b).inSurface x y = s.inSurface x y := rfl
  have hoor : (s.withDiagEn b).latch.ctrl.oorErr = s.latch.ctrl.oorErr := rfl
  unfold planSetPixel planOutOfRange
  rw [hin, hoor]
  split_ifs
  · exact .refl _
  · exact .refl _
  · exact .note _ _ _ rfl

/-- DIAG_EN shows in a visible blit of an unsupported format (43 R177); the loop does not look at it. -/
theorem planVisible_withDiagEn (s : State) (b : Bool) (h : Word) (img : ImageRec) (c : Clip) :
    Plan.SameButDiag (planVisible s h img c) (planVisible (s.withDiagEn b) h img c) := by
  unfold planVisible
  rw [blitLoop_congr s (s.withDiagEn b) h img img c c.pixels fun _ _ => rfl]
  split_ifs
  · exact .refl _
  · exact .note _ _ _ rfl

/-- DIAG_EN shows in a degenerate blit, as EMPTY (43 R172), and in a visible one. -/
theorem planSetImage_withDiagEn (s : State) (b : Bool) (h : Word) (dx dy : Int) :
    Plan.SameButDiag (planSetImage s h dx dy) (planSetImage (s.withDiagEn b) h dx dy) := by
  have hdesc : (s.withDiagEn b).imgDesc h = s.imgDesc h := rfl
  cases hd : s.imgDesc h with
  | none =>
    rw [planSetImage_missing hd, planSetImage_missing (hdesc.trans hd)]
    exact .refl _
  | some img =>
    have hclip : (s.withDiagEn b).imageClip img dx dy = s.imageClip img dx dy := rfl
    simp only [planSetImage, hdesc, hd, hclip]
    split_ifs
    · exact (Plan.SameButDiag.note _ _ _ rfl).withClip _ _ _
    · exact (planVisible_withDiagEn s b h img _).withClip _ _ _

/-- DIAG_EN changes no command's plan but for a code that is no error (60 R223). -/
theorem planOf_withDiagEn (i : Instr) (s : State) (b : Bool) :
    Plan.SameButDiag (planOf i s) (planOf i (s.withDiagEn b)) := by
  cases i with
  | setPixelP x y c => exact (planSetPixel_withDiagEn s b x y _).onSurface rfl
  | setPixelRgb x y r g b' => exact (planSetPixel_withDiagEn s b x y _).onSurface rfl
  | setImage h => exact (planSetImage_withDiagEn s b h 0 0).onSurface rfl
  | setImageOff h dx dy => exact (planSetImage_withDiagEn s b h dx dy).onSurface rfl
  | _ => exact .refl _

/-- Carrying out plans that differ only by diagnostics differs only in RESULT: ERR, too, is set alike (10 R27). -/
theorem Plan.SameButDiag.carryOut {p q : Plan} (h : Plan.SameButDiag p q) (s : State) :
    s.carryOut q = { s.carryOut p with result := q.code } := by
  simp only [State.carryOut, State.complete, h.events, h.info, h.clip, h.geom, h.isError]

theorem carryOut_withDiagEn (s : State) (p : Plan) (b : Bool) :
    (s.withDiagEn b).carryOut p = (s.carryOut p).withDiagEn b := by
  obtain ⟨evs, code, info, clip, geom⟩ := p
  cases clip <;> cases geom <;> rfl

/-- Settles O12: both commands carry out the same plan but for the code, so that beside the latched DIAG_EN only RESULT
can differ. -/
theorem diagnosticsChangeOnlyTheCode : Obligations.DiagnosticsChangeOnlyTheCode := by
  intro i s t b h
  rw [exec_eq] at h
  cases h
  have hsame := planOf_withDiagEn i s b
  have hexec : exec i (s.withDiagEn b) = .next
      (State.withDiagEn { s.carryOut (planOf i s) with result := (planOf i (s.withDiagEn b)).code } b) := by
    rw [exec_eq, carryOut_withDiagEn, hsame.carryOut]
  refine ⟨_, hexec, rfl, rfl, rfl, rfl, rfl, ⟨rfl, rfl, rfl⟩, ⟨rfl, rfl⟩,
    ⟨rfl, rfl, rfl, rfl, rfl, rfl, rfl, rfl, rfl, rfl⟩, fun hne => ?_⟩
  rw [carryOut_result] at hne ⊢
  exact hsame.code.resolve_left hne

end Sys2Proof.Machine

/-! PROOFS. Reset and hazards: what a reset leaves of the registers and of a command in progress, which changes of the
stores a command sees, and that a blit depends on its image only through what it may read. -/

namespace Sys2Proof.Machine

/-! ### Reset -/

/-- The registers read as after power-on (70 R250, 10 R46). -/
theorem readReg_resetBlock (s : State) (n off : Nat) : (s.resetBlock n).readReg off = 0 := by
  have hsame : (s.resetBlock n).readReg off = State.reset.readReg off := rfl
  exact hsame.trans (powerOnStateIsAllZero.1 off)

/-- Settles O22: a reset that lets none of the pending events happen adds only the release. -/
theorem resetClearsTheBlock : Obligations.ResetClearsTheBlock := by
  refine fun s => ⟨s.resetBlock 0, rfl, readReg_resetBlock s 0, rfl, rfl, rfl, ?_⟩
  rw [resetBlock_trace, List.take_zero, List.append_nil]

/-- The pending events are those that the engine's turn would append (40 R123, 45 R214). -/
theorem pendingEvents_of_turn {s t : State} {evs : List Event} (hv : s.latch.valid = true)
    (h : s.engineTurn = .next t) (hevs : EventsAppended s t evs) :
    s.pendingEvents = evs.map (fun e => { command := some s.latch.index, event := e }) := by
  rcases turn_cases h hevs with ⟨-, -, rfl⟩ | ⟨hidle, -, -⟩
  · rw [pendingEvents_eq, if_pos hv]
  · exact absurd hv (Bool.eq_false_iff.1 hidle)

/-- Settles O23: of the pending events, which are the turn's, a reset keeps the first `n`. -/
theorem resetAbandonsTheCommand : Obligations.ResetAbandonsTheCommand := by
  intro s t evs n hv h hevs _
  refine ⟨s.resetBlock n, rfl, ?_, readReg_resetBlock s n, rfl, rfl⟩
  rw [resetBlock_trace, pendingEvents_of_turn hv h hevs, List.map_take]

/-! ### Changes of the stores -/

/-- What `f` reads of the stores has been the same since the issue of the latched command (70 R262). -/
def State.unchanged {α : Type} [DecidableEq α] (s : State) (f : Stores → α) : Bool :=
  s.earlier.all (fun t => decide (f t = f s.stores))

theorem imageStable_eq_unchanged (s : State) (h : Word) :
    s.imageStable h = s.unchanged (fun t => tabFind h.toNat t.images) := rfl

theorem bufferStable_eq_unchanged (s : State) (h : Word) :
    s.bufferStable h = s.unchanged (fun t => tabFind h.toNat t.buffers) := rfl

section
variable {α : Type} [DecidableEq α] {s : State} {u : Stores} {f : Stores → α}

/-- During a command the stores' contents before the change count as earlier ones, and they differ. -/
theorem unchanged_changeStores_of_ne (hv : s.latch.valid = true) (hf : f s.stores ≠ f u) :
    (s.changeStores u).unchanged f = false := by
  simp [State.unchanged, hv, hf]

theorem unchanged_changeStores_of_eq (hf : f u = f s.stores) : (s.changeStores u).unchanged f = s.unchanged f := by
  cases hv : s.latch.valid <;> simp [State.unchanged, hv, hf]

end

/-- Listing a value at one handle changes nothing at another. -/
theorem tabFind_tabInsert_of_ne {α : Type} {h h' : Word} (hne : h' ≠ h) (v : α) (t : List (Nat × α)) :
    tabFind h'.toNat (tabInsert h.toNat v t) = tabFind h'.toNat t := by
  rw [tabFind_tabInsert, if_neg fun heq => hne (BitVec.eq_of_toNat_eq heq)]

theorem tabFind_tabInsert_self {α : Type} (k : Nat) (v : α) (t : List (Nat × α)) :
    tabFind k (tabInsert k v t) = some v := by
  rw [tabFind_tabInsert, if_pos rfl]

/-- Settles O54: the change shows at the key it writes and at no other. -/
theorem changeDuringACommandIsSeen : Obligations.ChangeDuringACommandIsSeen := by
  intro s h h' r b hv
  simp only [imageStable_eq_unchanged, bufferStable_eq_unchanged, State.setImage, State.setBuffer]
  refine ⟨fun hr => unchanged_changeStores_of_ne hv ?_, fun hne => unchanged_changeStores_of_eq ?_,
    unchanged_changeStores_of_eq rfl, fun hb => unchanged_changeStores_of_ne hv ?_,
    fun hne => unchanged_changeStores_of_eq ?_, unchanged_changeStores_of_eq rfl⟩
  · rwa [tabFind_tabInsert_self]
  · exact tabFind_tabInsert_of_ne hne _ _
  · rwa [tabFind_tabInsert_self]
  · exact tabFind_tabInsert_of_ne hne _ _

/-! ### What a blit sees of its image -/

/-- The state with other contents of the stores, their record as it was. -/
def State.withStores (s : State) (u : Stores) : State := { s with stores := u }

theorem carryOut_withStores (s : State) (u : Stores) (p : Plan) :
    (s.withStores u).carryOut p = (s.carryOut p).withStores u := by
  obtain ⟨evs, code, info, clip, geom⟩ := p
  cases clip <;> cases geom <;> rfl

/-- The images agree in all that a blit with clip `c` may read: the descriptor, the visible pixels and, for Palette8, the
palette (70 R264, 43 R183). -/
structure SeenAlike (c : Clip) (img img' : ImageRec) : Prop where
  width : img'.width = img.width
  height : img'.height = img.height
  format : img'.format = img.format
  palette : img.format = 2 → img'.palLen = img.palLen ∧ img'.palette = img.palette
  pixels : ∀ p ∈ c.pixels,
    pixAt img' (c.source p).1 (c.source p).2 = pixAt img (c.source p).1 (c.source p).2

section
variable {s : State} {u : Stores} {h : Word} {img img' : ImageRec}

/-- While the stores are as at the issue, every image is stable (70 R262). -/
theorem imageStable_of_no_earlier (he : s.earlier = []) : s.imageStable h = true := by
  rw [State.imageStable, he, List.all_nil]

theorem imageStable_withStores (he : s.earlier = []) : (s.withStores u).imageStable h = s.imageStable h :=
  (imageStable_of_no_earlier (s := s.withStores u) he).trans (imageStable_of_no_earlier he).symm

theorem imgDesc_of_no_earlier (he : s.earlier = []) : s.imgDesc h = s.stores.image h :=
  if_pos (imageStable_of_no_earlier he)

theorem pixRead_withStores (he : s.earlier = []) {x y : Nat} (hp : pixAt img' x y = pixAt img x y) :
    (s.withStores u).pixRead h img' x y = s.pixRead h img x y := by
  rw [State.pixRead, State.pixRead, imageStable_withStores he, hp]
  rfl

theorem palRead_withStores (he : s.earlier = []) (hp : img'.palette = img.palette) (x y k : Nat) :
    (s.withStores u).palRead h img' x y k = s.palRead h img x y k := by
  rw [State.palRead, State.palRead, imageStable_withStores he, hp]
  rfl

/-- Only a Palette8 pixel looks at the palette (43 R178 to R180). -/
theorem decodePixel_withStores (he : s.earlier = []) (hf : img'.format = img.format)
    (hsup : formatSupported img.format = true)
    (hpal : img.format = 2 → img'.palLen = img.palLen ∧ img'.palette = img.palette) (w : Word) (x y : Nat) :
    decodePixel (s.withStores u) h img' w x y = decodePixel s h img w x y := by
  unfold decodePixel
  rw [hf]
  split_ifs with h₀ h₁
  · rfl
  · rfl
  · have h₂ : img.format = 2 := by
      rw [formatSupported_iff] at hsup
      bv_omega
    obtain ⟨hlen, hbytes⟩ := hpal h₂
    simp only [decodePalette8, hlen, palRead_withStores he hbytes]

/-- A visible blit of images seen alike: the same plan, since every visible pixel decodes alike. -/
theorem planVisible_withStores {c : Clip} (he : s.earlier = []) (ha : SeenAlike c img img') :
    planVisible (s.withStores u) h img' c = planVisible s h img c := by
  unfold planVisible
  rw [ha.format]
  split_ifs with hsup
  · have hdecode : ∀ p ∈ c.pixels, (s.withStores u).decodeAt h img' (c.source p) = s.decodeAt h img (c.source p) := by
      intro p hp
      rw [State.decodeAt, State.decodeAt, pixRead_withStores he (ha.pixels p hp),
        decodePixel_withStores he ha.format hsup ha.palette]
    rw [blitLoop_congr s (s.withStores u) h img img' c c.pixels hdecode]
  · rfl

/-- Images seen alike give a SET_IMAGE the same plan: the clip needs only the descriptor (43 R170). -/
theorem planSetImage_withStores {dx dy : Int} (he : s.earlier = []) (hd : s.stores.image h = some img)
    (hd' : u.image h = some img') (ha : SeenAlike (s.imageClip img dx dy) img img') :
    planSetImage (s.withStores u) h dx dy = planSetImage s h dx dy := by
  have hdesc : s.imgDesc h = some img := (imgDesc_of_no_earlier he).trans hd
  have hdesc' : (s.withStores u).imgDesc h = some img' :=
    (imgDesc_of_no_earlier (s := s.withStores u) he).trans hd'
  have hclip : (s.withStores u).imageClip img' dx dy = s.imageClip img dx dy := by
    simp only [State.imageClip, ha.width, ha.height]
    rfl
  cases hdeg : (s.imageClip img dx dy).degenerate with
  | true =>
    rw [planSetImage_degenerate hdesc hdeg, planSetImage_degenerate hdesc' (hclip ▸ hdeg)]
    rfl
  | false =>
    rw [planSetImage_visible hdesc hdeg, planSetImage_visible hdesc' (hclip ▸ hdeg), hclip,
      planVisible_withStores he ha]

end

/-- Settles O37: the same plan is carried out on both stores. -/
theorem unseenPixelsDoNotMatter : Obligations.UnseenPixelsDoNotMatter := by
  intro s t u i h dx dy img img' hi he hd hd' hw hh hf hpal hpix hexec
  have hplan : planOf i (s.withStores u) = planOf i s := by
    rw [planOf_isSetImage hi, planOf_isSetImage hi,
      planSetImage_withStores he hd hd' ⟨hw, hh, hf, hpal, hpix⟩]
    rfl
  rw [exec_eq] at hexec
  cases hexec
  calc exec i (s.withStores u)
      = .next ((s.withStores u).carryOut (planOf i s)) := by rw [exec_eq, hplan]
    _ = .next ((s.carryOut (planOf i s)).withStores u) := by rw [carryOut_withStores]

end Sys2Proof.Machine
